-- ==== Sys2Proof/Word.lean ====
section
/-! DEFINITION. The word types of AR0202 and the name of a register number (spec/00_scope.md R6 to R8, R12). -/

namespace Sys2Proof

/-- A byte, the unit of addressing (20_memory.md R50). -/
abbrev Byte := BitVec 8

/-- A halfword, the unit of instruction length (00_scope.md R18). -/
abbrev Half := BitVec 16

/-- A word: the contents of an arithmetic/index register (00_scope.md R7). -/
abbrev Word := BitVec 32

/-- A long operand, held in a register pair (10_state.md R23). -/
abbrev Long := BitVec 64

/-- A quad: the whole contents of a floating-point register (10_state.md R27). -/
abbrev Quad := BitVec 128

/-- The container of an address. Under 32-bit addressing only its low 32 bits are ever set
(00_scope.md R6; the invariant `State.Sound` says so). -/
abbrev Addr := BitVec 64

/-- A register number: every register field is one octal digit (00_scope.md R8). -/
abbrev RegNum := BitVec 3

end Sys2Proof
end

