-- ==== Sys2Proof/Config.lean ====
section
/-! DEFINITION. What a launch fixes for a whole run (the parameters of 00_scope.md R6, R9, R10 and
10_state.md R37), and the free values: constants with no body, about which nothing can be proved. -/

namespace Sys2Proof

/-- The decode modes the page names (00_scope.md R9). They change opcodes, not rights (60_exceptions.md R416). -/
inductive Mode where
  | normal
  | simple
  | localMode
  | compact
  deriving DecidableEq, Repr, Inhabited

/-- `ADDR_BYTES`: 32-bit or 64-bit addressing (00_scope.md R6). -/
inductive AddrWidth where
  | bits32
  | bits64
  deriving DecidableEq, Repr, Inhabited

/-- `FLAGS_UNSTATED`: what a data-processing instruction does to a status field for which the source
states no effect (10_state.md R33). -/
inductive FlagsPolicy where
  | havoc
  | preserve
  deriving DecidableEq, Repr, Inhabited

/-- `NARROW_UPPER`: what a Byte or Halfword operation does to the bits above its operand (43_shifts.md R233). -/
inductive UpperPolicy where
  | havoc
  | unchanged
  deriving DecidableEq, Repr, Inhabited

/-- The indication `R` of a status word: the sign of the last arithmetic result (10_state.md R31). -/
inductive Sign where
  | neg
  | zero
  | pos
  deriving DecidableEq, Repr, Inhabited

/-- The four floating-point types M, floating (no suffix), D, Q (46_math_functions.md R323). -/
inductive FpType where
  | m
  | f
  | d
  | q
  deriving DecidableEq, Repr, Inhabited

/-- The function codes of 46_math_functions.md R323; the last four exist for type Q only. -/
inductive FpFn where
  | sin
  | cos
  | tan
  | asn
  | acs
  | atn
  | sinh
  | cosh
  | tanh
  | asnh
  | acsh
  | atnh
  | sqr
  | qbr
  | log
  | exp
  | clr
  | abs
  | sgn
  | neg
  deriving DecidableEq, Repr, Inhabited

/-- A run of bytes `base .. base + size - 1`; the program text `TEXT` is a list of them (20_memory.md R66). -/
structure TextRange where
  base : Nat
  size : Nat
  deriving DecidableEq, Repr

/-- `ES_LAYOUT`: where format ES32 holds its fields (30_encoding.md R90, 42_extensible_shift.md R221). `rDAt` and
`rSAt` are the low bits of the register fields in the first halfword, `connAt` and `nAt` those of the connective
and the count in the second, and `mustBeZero` the bits of the second that must be zero. -/
structure EsLayout where
  rDAt : Nat
  rSAt : Nat
  connAt : Nat
  nAt : Nat
  mustBeZero : Half
  deriving DecidableEq, Repr

/-- The launch parameters that no instruction changes (00_scope.md R6, R9, R10; 70_reset_and_hazards.md R433). -/
structure Params where
  /-- `ADDR_BYTES` (R6). -/
  addrWidth : AddrWidth
  /-- `MODE` (R9). -/
  mode : Mode
  /-- `FLAGS_UNSTATED` (10_state.md R33). -/
  flagsUnstated : FlagsPolicy
  /-- `NARROW_UPPER` (43_shifts.md R233). -/
  narrowUpper : UpperPolicy
  /-- `ES_LAYOUT` (42_extensible_shift.md R221; log entry 12). -/
  esLayout : EsLayout
  /-- `END_PC`, where the launch names one (70_reset_and_hazards.md R436). -/
  endPc : Option Addr
  /-- `TEXT`, as runs of bytes (20_memory.md R66). -/
  text : List TextRange
  deriving DecidableEq, Repr

namespace Config

/-- FREE VALUE (10_state.md R33 `havoc`): the carry bit after draw `k`. DESIGN CHOICE, log entry 3. -/
opaque freeCarry : Nat → Bool

/-- FREE VALUE (10_state.md R33 `havoc`): the overflow bit after draw `k`. DESIGN CHOICE, log entry 3. -/
opaque freeOverflow : Nat → Bool

/-- FREE VALUE (10_state.md R33 `havoc`): the sign indication after draw `k`. DESIGN CHOICE, log entry 3. -/
opaque freeSign : Nat → Sign

/-- FREE VALUE (43_shifts.md R233 `havoc`): what a register holds above a narrow operand after draw `k`.
DESIGN CHOICE, log entry 3. -/
opaque freeUpper : Nat → Word

/-- FREE VALUE (46_math_functions.md R321 `FpFunc`): the register image a function yields.
DESIGN CHOICE, log entry 4. -/
opaque fpImage : FpType → FpFn → Quad → Quad

/-- FREE VALUE (46_math_functions.md R322 `FSign`): the sign class of a register image read in a type.
DESIGN CHOICE, log entry 4. -/
opaque fpSign : FpType → Quad → Sign

/-- FREE VALUE (46_math_functions.md R391): which type-Q images the format treats as ordinary numbers.
DESIGN CHOICE, log entry 4. -/
opaque ordinaryImage : Quad → Bool

/-- FREE VALUE (46_math_functions.md R388 `QZERO`). DESIGN CHOICE, log entry 4. -/
opaque zeroImage : Quad

/-- FREE VALUE (46_math_functions.md R390 `QONE`). DESIGN CHOICE, log entry 4. -/
opaque oneImage : Quad

/-- FREE VALUE (46_math_functions.md R390 `QMINUSONE`). DESIGN CHOICE, log entry 4. -/
opaque minusOneImage : Quad

end Config

end Sys2Proof
end

