-- ==== Sys2Proof/Syntax.lean ====
section
/-! DEFINITION. The instructions of AR0202, one constructor for each of the 190 Normal Mode rows of
spec/opcode_table.json (00_scope.md R3). A Simple or Local Mode row is another encoding of the same
instruction (30_encoding.md R111, R112), so it has no constructor of its own. Operands are written as
30_encoding.md R101 writes them: `addr` is the even value `D` of 20_memory.md R60, `disp` counts halfwords. -/

namespace Sys2Proof

/-- The condition codes that the tables assign (10_state.md R34). -/
inductive Cond where
  | low
  | equal
  | lowOrEqual
  | high
  | notEqual
  | highOrEqual
  | noOverflow
  | overflow
  | carry
  | noCarry
  | always
  deriving DecidableEq, Repr

/-- The seven shift operations (43_shifts.md R230). -/
inductive ShiftOp where
  | shl
  | shr
  | asr
  | rol
  | ror
  | rlc
  | rrc
  deriving DecidableEq, Repr

/-- An instruction with its operands. -/
inductive Instr where
  -- Multiple-register and supplementary loads and stores (40_multiple_register.md)
  /-- LMU: Load Multiple (R136). -/
  | lmu (r1 r2 rB : RegNum) (addr : Half)
  /-- STMU: Store Multiple (R137). -/
  | stmu (r1 r2 rB : RegNum) (addr : Half)
  /-- LMUBR: Load Multiple Base Registers (R138). -/
  | lmubr (r1 r2 rB : RegNum) (addr : Half)
  /-- STMUBR: Store Multiple Base Registers (R139). -/
  | stmubr (r1 r2 rB : RegNum) (addr : Half)
  /-- LMUQ: Load Multiple Quad (R140). -/
  | lmuq (r1 r2 rB : RegNum) (addr : Half)
  /-- STMUQ: Store Multiple Quad (R141). -/
  | stmuq (r1 r2 rB : RegNum) (addr : Half)
  /-- SLBR: Supplementary Load Base Register (R149). -/
  | slbr (r rB : RegNum) (addr : Half)
  /-- SSTBR: Supplementary Store Base Register (R150). -/
  | sstbr (r rB : RegNum) (addr : Half)
  /-- SLSB: Supplementary Load Scratchpad Base (R151). -/
  | slsb (r rB : RegNum) (addr : Half)
  /-- SSSB: Supplementary Store Scratchpad Base (R152). -/
  | sssb (r rB : RegNum) (addr : Half)
  /-- SLPSB: Supplementary Load Pointer Scratchpad Base (R153). -/
  | slpsb (r rB : RegNum) (addr : Half)
  /-- SSPSB: Supplementary Store Pointer Scratchpad Base (R154). -/
  | sspsb (r rB : RegNum) (addr : Half)
  /-- SLASB: Supplementary Load Array Scratchpad Base (R155). -/
  | slasb (r rB : RegNum) (addr : Half)
  /-- SSASB: Supplementary Store Array Scratchpad Base (R156). -/
  | ssasb (r rB : RegNum) (addr : Half)
  /-- LMU with base register zero: POP of arithmetic/index registers (R142). -/
  | lmuPop (r1 r2 : RegNum)
  /-- STMU with base register zero: PUSH of arithmetic/index registers (R143). -/
  | stmuPush (r1 r2 : RegNum)
  /-- LMUBR with base register zero: POP of base registers (R144). -/
  | lmubrPop (r1 r2 : RegNum)
  /-- STMUBR with base register zero: PUSH of base registers (R145). -/
  | stmubrPush (r1 r2 : RegNum)
  /-- LMUQ with base register zero: POP of floating-point registers (R147). -/
  | lmuqPop (r1 r2 : RegNum)
  /-- STMUQ with base register zero: PUSH of floating-point registers (R157). -/
  | stmuqPush (r1 r2 : RegNum)
  -- Jumps, jump to subroutine, count-and-compare jumps, long branches (41_jumps.md)
  /-- JMS: Jump to Subroutine (R164). -/
  | jms (rR rX rB : RegNum) (addr : Half)
  /-- LBL: Long Branch if Low (R189). -/
  | lbl (disp : Half)
  /-- LBE: Long Branch if Equal (R190). -/
  | lbe (disp : Half)
  /-- LBLE: Long Branch if Low or Equal (R191). -/
  | lble (disp : Half)
  /-- LBH: Long Branch if High (R192). -/
  | lbh (disp : Half)
  /-- LBNE: Long Branch if Not Equal (R193). -/
  | lbne (disp : Half)
  /-- LBHE: Long Branch if High or Equal (R194). -/
  | lbhe (disp : Half)
  /-- LBNV: Long Branch if No Overflow (R195). -/
  | lbnv (disp : Half)
  /-- LBV: Long Branch if Overflow (R196). -/
  | lbv (disp : Half)
  /-- LBC: Long Branch if Carry (R197). -/
  | lbc (disp : Half)
  /-- LBNC: Long Branch if No Carry (R198). -/
  | lbnc (disp : Half)
  /-- LBRA: Long Branch (R199). -/
  | lbra (disp : Half)
  /-- LBXH: Long Branch if Index High (R200). -/
  | lbxh (cR lR : RegNum) (disp : Half)
  /-- LBXLE: Long Branch if Index Low or Equal (R201). -/
  | lbxle (cR lR : RegNum) (disp : Half)
  /-- LBRS: Long Branch to Subroutine (R202). -/
  | lbrs (rR : RegNum) (disp : Half)
  /-- JL: Jump if Low (R165). -/
  | jl (rX rB : RegNum) (addr : Half)
  /-- JE: Jump if Equal (R166). -/
  | je (rX rB : RegNum) (addr : Half)
  /-- JLE: Jump if Low or Equal (R167). -/
  | jle (rX rB : RegNum) (addr : Half)
  /-- JH: Jump if High (R168). -/
  | jh (rX rB : RegNum) (addr : Half)
  /-- JNE: Jump if Not Equal (R169). -/
  | jne (rX rB : RegNum) (addr : Half)
  /-- JHE: Jump if High or Equal (R170). -/
  | jhe (rX rB : RegNum) (addr : Half)
  /-- JNV: Jump if No Overflow (R171). -/
  | jnv (rX rB : RegNum) (addr : Half)
  /-- JV: Jump if Overflow (R172). -/
  | jv (rX rB : RegNum) (addr : Half)
  /-- JC: Jump if Carry (R173). -/
  | jc (rX rB : RegNum) (addr : Half)
  /-- JNC: Jump if No Carry (R174). -/
  | jnc (rX rB : RegNum) (addr : Half)
  /-- JMP: Jump (R175). -/
  | jmp (rX rB : RegNum) (addr : Half)
  /-- JVL: Jump if Saved Low (R176). -/
  | jvl (rX rB : RegNum) (addr : Half)
  /-- JVE: Jump if Saved Equal (R177). -/
  | jve (rX rB : RegNum) (addr : Half)
  /-- JVLE: Jump if Saved Low or Equal (R178). -/
  | jvle (rX rB : RegNum) (addr : Half)
  /-- JVH: Jump if Saved High (R179). -/
  | jvh (rX rB : RegNum) (addr : Half)
  /-- JVNE: Jump if Saved Not Equal (R180). -/
  | jvne (rX rB : RegNum) (addr : Half)
  /-- JVHE: Jump if Saved High or Equal (R181). -/
  | jvhe (rX rB : RegNum) (addr : Half)
  /-- JVNV: Jump if Saved No Overflow (R182). -/
  | jvnv (rX rB : RegNum) (addr : Half)
  /-- JVV: Jump if Saved Overflow (R183). -/
  | jvv (rX rB : RegNum) (addr : Half)
  /-- JVC: Jump if Saved Carry (R184). -/
  | jvc (rX rB : RegNum) (addr : Half)
  /-- JVNC: Jump if Saved No Carry (R185). -/
  | jvnc (rX rB : RegNum) (addr : Half)
  /-- JXH: Jump if Index High (R186). -/
  | jxh (cR lR rB : RegNum) (addr : Half)
  /-- JXLE: Jump if Index Low or Equal (R187). -/
  | jxle (cR lR rB : RegNum) (addr : Half)
  -- Extensible shifts (42_extensible_shift.md)
  /-- ESL: Extensible Shift Left (R227). -/
  | esl (rD rS : RegNum) (conn : BitVec 4) (n : BitVec 6)
  /-- ESR: Extensible Shift Right (R228). -/
  | esr (rD rS : RegNum) (conn : BitVec 4) (n : BitVec 6)
  -- Shifts and rotates (43_shifts.md)
  /-- SHLB: Shift Left Byte (R237). -/
  | shlb (r : RegNum) (n : BitVec 3)
  /-- SHRB: Shift Right Byte (R238). -/
  | shrb (r : RegNum) (n : BitVec 3)
  /-- ASRB: Arithmetic Shift Right Byte (R239). -/
  | asrb (r : RegNum) (n : BitVec 3)
  /-- ROLB: Rotate Left Byte (R240). -/
  | rolb (r : RegNum) (n : BitVec 3)
  /-- RORB: Rotate Right Byte (R241). -/
  | rorb (r : RegNum) (n : BitVec 3)
  /-- RLCB: Rotate Left through Carry Byte (R242). -/
  | rlcb (r : RegNum) (n : BitVec 3)
  /-- RRCB: Rotate Right through Carry Byte (R243). -/
  | rrcb (r : RegNum) (n : BitVec 3)
  /-- SHLH: Shift Left Halfword (R244). -/
  | shlh (r : RegNum) (n : BitVec 4)
  /-- SHRH: Shift Right Halfword (R245). -/
  | shrh (r : RegNum) (n : BitVec 4)
  /-- ASRH: Arithmetic Shift Right Halfword (R246). -/
  | asrh (r : RegNum) (n : BitVec 4)
  /-- ROLH: Rotate Left Halfword (R247). -/
  | rolh (r : RegNum) (n : BitVec 4)
  /-- RORH: Rotate Right Halfword (R248). -/
  | rorh (r : RegNum) (n : BitVec 4)
  /-- RLCH: Rotate Left through Carry Halfword (R249). -/
  | rlch (r : RegNum) (n : BitVec 4)
  /-- RRCH: Rotate Right through Carry Halfword (R250). -/
  | rrch (r : RegNum) (n : BitVec 4)
  /-- SHL: Shift Left (R251). -/
  | shl (r : RegNum) (n : BitVec 5)
  /-- SHR: Shift Right (R252). -/
  | shr (r : RegNum) (n : BitVec 5)
  /-- ASR: Arithmetic Shift Right (R253). -/
  | asr (r : RegNum) (n : BitVec 5)
  /-- ROL: Rotate Left (R254). -/
  | rol (r : RegNum) (n : BitVec 5)
  /-- ROR: Rotate Right (R255). -/
  | ror (r : RegNum) (n : BitVec 5)
  /-- RLC: Rotate Left through Carry (R256). -/
  | rlc (r : RegNum) (n : BitVec 5)
  /-- RRC: Rotate Right through Carry (R257). -/
  | rrc (r : RegNum) (n : BitVec 5)
  /-- SHLL: Shift Left Long (R258). -/
  | shll (r : RegNum) (n : BitVec 6)
  /-- SHRL: Shift Right Long (R259). -/
  | shrl (r : RegNum) (n : BitVec 6)
  /-- ASRL: Arithmetic Shift Right Long (R260). -/
  | asrl (r : RegNum) (n : BitVec 6)
  /-- ROLL: Rotate Left Long (R261). -/
  | roll (r : RegNum) (n : BitVec 6)
  /-- RORL: Rotate Right Long (R262). -/
  | rorl (r : RegNum) (n : BitVec 6)
  /-- RLCL: Rotate Left through Carry Long (R263). -/
  | rlcl (r : RegNum) (n : BitVec 6)
  /-- RRCL: Rotate Right through Carry Long (R264). -/
  | rrcl (r : RegNum) (n : BitVec 6)
  -- Branches and returns (44_branch_return.md)
  /-- BL: Branch if Low (R273). -/
  | bl (disp : BitVec 6)
  /-- BE: Branch if Equal (R274). -/
  | be (disp : BitVec 6)
  /-- BLE: Branch if Low or Equal (R275). -/
  | ble (disp : BitVec 6)
  /-- BH: Branch if High (R276). -/
  | bh (disp : BitVec 6)
  /-- BNE: Branch if Not Equal (R277). -/
  | bne (disp : BitVec 6)
  /-- BHE: Branch if High or Equal (R278). -/
  | bhe (disp : BitVec 6)
  /-- BNV: Branch if No Overflow (R279). -/
  | bnv (disp : BitVec 6)
  /-- BV: Branch if Overflow (R280). -/
  | bv (disp : BitVec 6)
  /-- BC: Branch if Carry (R281). -/
  | bc (disp : BitVec 6)
  /-- BNC: Branch if No Carry (R282). -/
  | bnc (disp : BitVec 6)
  /-- BRA: Branch (R283). -/
  | bra (disp : BitVec 6)
  /-- RL: Return if Low (R285). -/
  | rl
  /-- RE: Return if Equal (R286). -/
  | re
  /-- RLE: Return if Low or Equal (R287). -/
  | rle
  /-- RH: Return if High (R288). -/
  | rh
  /-- RNE: Return if Not Equal (R289). -/
  | rne
  /-- RHE: Return if High or Equal (R290). -/
  | rhe
  /-- RNV: Return if No Overflow (R291). -/
  | rnv
  /-- RV: Return if Overflow (R292). -/
  | rv
  /-- RC: Return if Carry (R293). -/
  | rc
  /-- RNC: Return if No Carry (R294). -/
  | rnc
  /-- RSS: Return from Stack Subroutine (R295). -/
  | rss
  -- Single-operand and normalize instructions (45_single_operand.md)
  /-- CLR: Clear (R304). -/
  | clr (r : RegNum)
  /-- CLRL: Clear Long (R305). -/
  | clrl (r : RegNum)
  /-- ABS: Absolute Value (R306). -/
  | abs (r : RegNum)
  /-- ABSL: Absolute Value Long (R307). -/
  | absl (r : RegNum)
  /-- INV: Invert (R308). -/
  | inv (r : RegNum)
  /-- INVL: Invert Long (R309). -/
  | invl (r : RegNum)
  /-- NEG: Negate (R310). -/
  | neg (r : RegNum)
  /-- NEGL: Negate Long (R311). -/
  | negl (r : RegNum)
  /-- NB: Normalize Byte (R315). -/
  | nb (rD rS : RegNum)
  /-- NH: Normalize Halfword (R316). -/
  | nh (rD rS : RegNum)
  /-- N: Normalize (R317). -/
  | n (rD rS : RegNum)
  /-- NL: Normalize Long (R318). -/
  | nl (rD rS : RegNum)
  -- Mathematical functions (46_math_functions.md)
  /-- SINM: SIN, type M (R324). -/
  | sinm (r : RegNum)
  /-- SIN: SIN, floating type (R325). -/
  | sin (r : RegNum)
  /-- SIND: SIN, type D (R326). -/
  | sind (r : RegNum)
  /-- SINQ: SIN, type Q (R327). -/
  | sinq (r : RegNum)
  /-- COSM: COS, type M (R328). -/
  | cosm (r : RegNum)
  /-- COS: COS, floating type (R329). -/
  | cos (r : RegNum)
  /-- COSD: COS, type D (R330). -/
  | cosd (r : RegNum)
  /-- COSQ: COS, type Q (R331). -/
  | cosq (r : RegNum)
  /-- TANM: TAN, type M (R332). -/
  | tanm (r : RegNum)
  /-- TAN: TAN, floating type (R333). -/
  | tan (r : RegNum)
  /-- TAND: TAN, type D (R334). -/
  | tand (r : RegNum)
  /-- TANQ: TAN, type Q (R335). -/
  | tanq (r : RegNum)
  /-- ASNM: ASN, type M (R336). -/
  | asnm (r : RegNum)
  /-- ASN: ASN, floating type (R337). -/
  | asn (r : RegNum)
  /-- ASND: ASN, type D (R338). -/
  | asnd (r : RegNum)
  /-- ASNQ: ASN, type Q (R339). -/
  | asnq (r : RegNum)
  /-- ACSM: ACS, type M (R340). -/
  | acsm (r : RegNum)
  /-- ACS: ACS, floating type (R341). -/
  | acs (r : RegNum)
  /-- ACSD: ACS, type D (R342). -/
  | acsd (r : RegNum)
  /-- ACSQ: ACS, type Q (R343). -/
  | acsq (r : RegNum)
  /-- ATNM: ATN, type M (R344). -/
  | atnm (r : RegNum)
  /-- ATN: ATN, floating type (R345). -/
  | atn (r : RegNum)
  /-- ATND: ATN, type D (R346). -/
  | atnd (r : RegNum)
  /-- ATNQ: ATN, type Q (R347). -/
  | atnq (r : RegNum)
  /-- SINHM: SINH, type M (R348). -/
  | sinhm (r : RegNum)
  /-- SINH: SINH, floating type (R349). -/
  | sinh (r : RegNum)
  /-- SINHD: SINH, type D (R350). -/
  | sinhd (r : RegNum)
  /-- SINHQ: SINH, type Q (R351). -/
  | sinhq (r : RegNum)
  /-- COSHM: COSH, type M (R352). -/
  | coshm (r : RegNum)
  /-- COSH: COSH, floating type (R353). -/
  | cosh (r : RegNum)
  /-- COSHD: COSH, type D (R354). -/
  | coshd (r : RegNum)
  /-- COSHQ: COSH, type Q (R355). -/
  | coshq (r : RegNum)
  /-- TANHM: TANH, type M (R356). -/
  | tanhm (r : RegNum)
  /-- TANH: TANH, floating type (R357). -/
  | tanh (r : RegNum)
  /-- TANHD: TANH, type D (R358). -/
  | tanhd (r : RegNum)
  /-- TANHQ: TANH, type Q (R359). -/
  | tanhq (r : RegNum)
  /-- ASNHM: ASNH, type M (R360). -/
  | asnhm (r : RegNum)
  /-- ASNH: ASNH, floating type (R361). -/
  | asnh (r : RegNum)
  /-- ASNHD: ASNH, type D (R362). -/
  | asnhd (r : RegNum)
  /-- ASNHQ: ASNH, type Q (R363). -/
  | asnhq (r : RegNum)
  /-- ACSHM: ACSH, type M (R364). -/
  | acshm (r : RegNum)
  /-- ACSH: ACSH, floating type (R365). -/
  | acsh (r : RegNum)
  /-- ACSHD: ACSH, type D (R366). -/
  | acshd (r : RegNum)
  /-- ACSHQ: ACSH, type Q (R367). -/
  | acshq (r : RegNum)
  /-- ATNHM: ATNH, type M (R368). -/
  | atnhm (r : RegNum)
  /-- ATNH: ATNH, floating type (R369). -/
  | atnh (r : RegNum)
  /-- ATNHD: ATNH, type D (R370). -/
  | atnhd (r : RegNum)
  /-- ATNHQ: ATNH, type Q (R371). -/
  | atnhq (r : RegNum)
  /-- SQRM: SQR, type M (R372). -/
  | sqrm (r : RegNum)
  /-- SQR: SQR, floating type (R373). -/
  | sqr (r : RegNum)
  /-- SQRD: SQR, type D (R374). -/
  | sqrd (r : RegNum)
  /-- SQRQ: SQR, type Q (R375). -/
  | sqrq (r : RegNum)
  /-- QBRM: QBR, type M (R376). -/
  | qbrm (r : RegNum)
  /-- QBR: QBR, floating type (R377). -/
  | qbr (r : RegNum)
  /-- QBRD: QBR, type D (R378). -/
  | qbrd (r : RegNum)
  /-- QBRQ: QBR, type Q (R379). -/
  | qbrq (r : RegNum)
  /-- LOGM: LOG, type M (R380). -/
  | logm (r : RegNum)
  /-- LOG: LOG, floating type (R381). -/
  | log (r : RegNum)
  /-- LOGD: LOG, type D (R382). -/
  | logd (r : RegNum)
  /-- LOGQ: LOG, type Q (R383). -/
  | logq (r : RegNum)
  /-- EXPM: EXP, type M (R384). -/
  | expm (r : RegNum)
  /-- EXP: EXP, floating type (R385). -/
  | exp (r : RegNum)
  /-- EXPD: EXP, type D (R386). -/
  | expd (r : RegNum)
  /-- EXPQ: EXP, type Q (R387). -/
  | expq (r : RegNum)
  /-- CLRQ: CLRQ (R388). -/
  | clrq (r : RegNum)
  /-- ABSQ: ABSQ (R389). -/
  | absq (r : RegNum)
  /-- SGNQ: SGNQ (R390). -/
  | sgnq (r : RegNum)
  /-- NEGQ: NEGQ (R391). -/
  | negq (r : RegNum)
  deriving DecidableEq, Repr

end Sys2Proof
end

