-- ==== Sys2Proof/WellFormed.lean ====
section
/-! DEFINITION. Which operand values an encoding can carry, and which decode modes have an instruction.
An operand value that can be encoded but has no meaning (30_encoding.md R122) is well formed: its
instruction's meaning says what happens. -/

namespace Sys2Proof

/-- The address of a memory-reference instruction: `rB` is never zero (30_encoding.md R86) and bit 0
is an opcode bit, not an address bit (20_memory.md R60, R61). -/
def evenAddress (rB : RegNum) (addr : Half) : Bool :=
  rB != 0 && !addr.getLsbD 0

/-- The address of a multiple-register or supplementary instruction: bit 1 must be zero as well
(20_memory.md R61). -/
def wordAddress (rB : RegNum) (addr : Half) : Bool :=
  rB != 0 && !addr.getLsbD 0 && !addr.getLsbD 1

/-- The operands are ones the instruction's format can hold. A branch displacement is never zero,
since zero selects the return (30_encoding.md R95). -/
def Instr.operandsOk : Instr → Bool
  | .jms _ _ rB addr => evenAddress rB addr
  | .lmu _ _ rB addr => wordAddress rB addr
  | .stmu _ _ rB addr => wordAddress rB addr
  | .lmubr _ _ rB addr => wordAddress rB addr
  | .stmubr _ _ rB addr => wordAddress rB addr
  | .lmuq _ _ rB addr => wordAddress rB addr
  | .stmuq _ _ rB addr => wordAddress rB addr
  | .lbl _ => true
  | .lbe _ => true
  | .lble _ => true
  | .lbh _ => true
  | .lbne _ => true
  | .lbhe _ => true
  | .lbnv _ => true
  | .lbv _ => true
  | .lbc _ => true
  | .lbnc _ => true
  | .lbra _ => true
  | .lbxh _ _ _ => true
  | .lbxle _ _ _ => true
  | .lbrs _ _ => true
  | .jl _ rB addr => evenAddress rB addr
  | .je _ rB addr => evenAddress rB addr
  | .jle _ rB addr => evenAddress rB addr
  | .jh _ rB addr => evenAddress rB addr
  | .jne _ rB addr => evenAddress rB addr
  | .jhe _ rB addr => evenAddress rB addr
  | .jnv _ rB addr => evenAddress rB addr
  | .jv _ rB addr => evenAddress rB addr
  | .jc _ rB addr => evenAddress rB addr
  | .jnc _ rB addr => evenAddress rB addr
  | .jmp _ rB addr => evenAddress rB addr
  | .jvl _ rB addr => evenAddress rB addr
  | .jve _ rB addr => evenAddress rB addr
  | .jvle _ rB addr => evenAddress rB addr
  | .jvh _ rB addr => evenAddress rB addr
  | .jvne _ rB addr => evenAddress rB addr
  | .jvhe _ rB addr => evenAddress rB addr
  | .jvnv _ rB addr => evenAddress rB addr
  | .jvv _ rB addr => evenAddress rB addr
  | .jvc _ rB addr => evenAddress rB addr
  | .jvnc _ rB addr => evenAddress rB addr
  | .jxh _ _ rB addr => evenAddress rB addr
  | .jxle _ _ rB addr => evenAddress rB addr
  | .slbr _ rB addr => wordAddress rB addr
  | .sstbr _ rB addr => wordAddress rB addr
  | .slsb _ rB addr => wordAddress rB addr
  | .sssb _ rB addr => wordAddress rB addr
  | .slpsb _ rB addr => wordAddress rB addr
  | .sspsb _ rB addr => wordAddress rB addr
  | .slasb _ rB addr => wordAddress rB addr
  | .ssasb _ rB addr => wordAddress rB addr
  | .lmuPop _ _ => true
  | .stmuPush _ _ => true
  | .lmubrPop _ _ => true
  | .stmubrPush _ _ => true
  | .lmuqPop _ _ => true
  | .stmuqPush _ _ => true
  | .esl _ _ _ _ => true
  | .esr _ _ _ _ => true
  | .shlb _ _ => true
  | .shrb _ _ => true
  | .asrb _ _ => true
  | .rolb _ _ => true
  | .rorb _ _ => true
  | .rlcb _ _ => true
  | .rrcb _ _ => true
  | .shlh _ _ => true
  | .shrh _ _ => true
  | .asrh _ _ => true
  | .rolh _ _ => true
  | .rorh _ _ => true
  | .rlch _ _ => true
  | .rrch _ _ => true
  | .shl _ _ => true
  | .shr _ _ => true
  | .asr _ _ => true
  | .rol _ _ => true
  | .ror _ _ => true
  | .rlc _ _ => true
  | .rrc _ _ => true
  | .shll _ _ => true
  | .shrl _ _ => true
  | .asrl _ _ => true
  | .roll _ _ => true
  | .rorl _ _ => true
  | .rlcl _ _ => true
  | .rrcl _ _ => true
  | .clr _ => true
  | .clrl _ => true
  | .abs _ => true
  | .absl _ => true
  | .inv _ => true
  | .invl _ => true
  | .neg _ => true
  | .negl _ => true
  | .nb _ _ => true
  | .nh _ _ => true
  | .n _ _ => true
  | .nl _ _ => true
  | .bl disp => disp != 0
  | .be disp => disp != 0
  | .ble disp => disp != 0
  | .bh disp => disp != 0
  | .bne disp => disp != 0
  | .bhe disp => disp != 0
  | .bnv disp => disp != 0
  | .bv disp => disp != 0
  | .bc disp => disp != 0
  | .bnc disp => disp != 0
  | .bra disp => disp != 0
  | .rl => true
  | .re => true
  | .rle => true
  | .rh => true
  | .rne => true
  | .rhe => true
  | .rnv => true
  | .rv => true
  | .rc => true
  | .rnc => true
  | .rss => true
  | .sinm _ => true
  | .sin _ => true
  | .sind _ => true
  | .sinq _ => true
  | .cosm _ => true
  | .cos _ => true
  | .cosd _ => true
  | .cosq _ => true
  | .tanm _ => true
  | .tan _ => true
  | .tand _ => true
  | .tanq _ => true
  | .asnm _ => true
  | .asn _ => true
  | .asnd _ => true
  | .asnq _ => true
  | .acsm _ => true
  | .acs _ => true
  | .acsd _ => true
  | .acsq _ => true
  | .atnm _ => true
  | .atn _ => true
  | .atnd _ => true
  | .atnq _ => true
  | .sinhm _ => true
  | .sinh _ => true
  | .sinhd _ => true
  | .sinhq _ => true
  | .coshm _ => true
  | .cosh _ => true
  | .coshd _ => true
  | .coshq _ => true
  | .tanhm _ => true
  | .tanh _ => true
  | .tanhd _ => true
  | .tanhq _ => true
  | .asnhm _ => true
  | .asnh _ => true
  | .asnhd _ => true
  | .asnhq _ => true
  | .acshm _ => true
  | .acsh _ => true
  | .acshd _ => true
  | .acshq _ => true
  | .atnhm _ => true
  | .atnh _ => true
  | .atnhd _ => true
  | .atnhq _ => true
  | .sqrm _ => true
  | .sqr _ => true
  | .sqrd _ => true
  | .sqrq _ => true
  | .qbrm _ => true
  | .qbr _ => true
  | .qbrd _ => true
  | .qbrq _ => true
  | .logm _ => true
  | .log _ => true
  | .logd _ => true
  | .logq _ => true
  | .expm _ => true
  | .exp _ => true
  | .expd _ => true
  | .expq _ => true
  | .clrq _ => true
  | .absq _ => true
  | .sgnq _ => true
  | .negq _ => true

/-- The group of an instruction, as far as the availability of 30_encoding.md R110 to R114 goes. -/
inductive Availability where
  /-- the 32-bit transfers and loads and stores: Normal, Simple and Local Mode (R110 to R112) -/
  | transfer
  /-- the shifts, single-operand and normalize instructions: Normal and Simple Mode (R114) -/
  | operate
  /-- Normal Mode only: stack forms and ESL, ESR (R111), branches, returns and functions (R114) -/
  | normalOnly
  deriving DecidableEq, Repr

/-- Which group an instruction is in. -/
def Instr.availability : Instr → Availability
  | .jms _ _ _ _ => .transfer
  | .lmu _ _ _ _ => .transfer
  | .stmu _ _ _ _ => .transfer
  | .lmubr _ _ _ _ => .transfer
  | .stmubr _ _ _ _ => .transfer
  | .lmuq _ _ _ _ => .transfer
  | .stmuq _ _ _ _ => .transfer
  | .lbl _ => .transfer
  | .lbe _ => .transfer
  | .lble _ => .transfer
  | .lbh _ => .transfer
  | .lbne _ => .transfer
  | .lbhe _ => .transfer
  | .lbnv _ => .transfer
  | .lbv _ => .transfer
  | .lbc _ => .transfer
  | .lbnc _ => .transfer
  | .lbra _ => .transfer
  | .lbxh _ _ _ => .transfer
  | .lbxle _ _ _ => .transfer
  | .lbrs _ _ => .transfer
  | .jl _ _ _ => .transfer
  | .je _ _ _ => .transfer
  | .jle _ _ _ => .transfer
  | .jh _ _ _ => .transfer
  | .jne _ _ _ => .transfer
  | .jhe _ _ _ => .transfer
  | .jnv _ _ _ => .transfer
  | .jv _ _ _ => .transfer
  | .jc _ _ _ => .transfer
  | .jnc _ _ _ => .transfer
  | .jmp _ _ _ => .transfer
  | .jvl _ _ _ => .transfer
  | .jve _ _ _ => .transfer
  | .jvle _ _ _ => .transfer
  | .jvh _ _ _ => .transfer
  | .jvne _ _ _ => .transfer
  | .jvhe _ _ _ => .transfer
  | .jvnv _ _ _ => .transfer
  | .jvv _ _ _ => .transfer
  | .jvc _ _ _ => .transfer
  | .jvnc _ _ _ => .transfer
  | .jxh _ _ _ _ => .transfer
  | .jxle _ _ _ _ => .transfer
  | .slbr _ _ _ => .transfer
  | .sstbr _ _ _ => .transfer
  | .slsb _ _ _ => .transfer
  | .sssb _ _ _ => .transfer
  | .slpsb _ _ _ => .transfer
  | .sspsb _ _ _ => .transfer
  | .slasb _ _ _ => .transfer
  | .ssasb _ _ _ => .transfer
  | .lmuPop _ _ => .normalOnly
  | .stmuPush _ _ => .normalOnly
  | .lmubrPop _ _ => .normalOnly
  | .stmubrPush _ _ => .normalOnly
  | .lmuqPop _ _ => .normalOnly
  | .stmuqPush _ _ => .normalOnly
  | .esl _ _ _ _ => .normalOnly
  | .esr _ _ _ _ => .normalOnly
  | .shlb _ _ => .operate
  | .shrb _ _ => .operate
  | .asrb _ _ => .operate
  | .rolb _ _ => .operate
  | .rorb _ _ => .operate
  | .rlcb _ _ => .operate
  | .rrcb _ _ => .operate
  | .shlh _ _ => .operate
  | .shrh _ _ => .operate
  | .asrh _ _ => .operate
  | .rolh _ _ => .operate
  | .rorh _ _ => .operate
  | .rlch _ _ => .operate
  | .rrch _ _ => .operate
  | .shl _ _ => .operate
  | .shr _ _ => .operate
  | .asr _ _ => .operate
  | .rol _ _ => .operate
  | .ror _ _ => .operate
  | .rlc _ _ => .operate
  | .rrc _ _ => .operate
  | .shll _ _ => .operate
  | .shrl _ _ => .operate
  | .asrl _ _ => .operate
  | .roll _ _ => .operate
  | .rorl _ _ => .operate
  | .rlcl _ _ => .operate
  | .rrcl _ _ => .operate
  | .clr _ => .operate
  | .clrl _ => .operate
  | .abs _ => .operate
  | .absl _ => .operate
  | .inv _ => .operate
  | .invl _ => .operate
  | .neg _ => .operate
  | .negl _ => .operate
  | .nb _ _ => .operate
  | .nh _ _ => .operate
  | .n _ _ => .operate
  | .nl _ _ => .operate
  | .bl _ => .normalOnly
  | .be _ => .normalOnly
  | .ble _ => .normalOnly
  | .bh _ => .normalOnly
  | .bne _ => .normalOnly
  | .bhe _ => .normalOnly
  | .bnv _ => .normalOnly
  | .bv _ => .normalOnly
  | .bc _ => .normalOnly
  | .bnc _ => .normalOnly
  | .bra _ => .normalOnly
  | .rl => .normalOnly
  | .re => .normalOnly
  | .rle => .normalOnly
  | .rh => .normalOnly
  | .rne => .normalOnly
  | .rhe => .normalOnly
  | .rnv => .normalOnly
  | .rv => .normalOnly
  | .rc => .normalOnly
  | .rnc => .normalOnly
  | .rss => .normalOnly
  | .sinm _ => .normalOnly
  | .sin _ => .normalOnly
  | .sind _ => .normalOnly
  | .sinq _ => .normalOnly
  | .cosm _ => .normalOnly
  | .cos _ => .normalOnly
  | .cosd _ => .normalOnly
  | .cosq _ => .normalOnly
  | .tanm _ => .normalOnly
  | .tan _ => .normalOnly
  | .tand _ => .normalOnly
  | .tanq _ => .normalOnly
  | .asnm _ => .normalOnly
  | .asn _ => .normalOnly
  | .asnd _ => .normalOnly
  | .asnq _ => .normalOnly
  | .acsm _ => .normalOnly
  | .acs _ => .normalOnly
  | .acsd _ => .normalOnly
  | .acsq _ => .normalOnly
  | .atnm _ => .normalOnly
  | .atn _ => .normalOnly
  | .atnd _ => .normalOnly
  | .atnq _ => .normalOnly
  | .sinhm _ => .normalOnly
  | .sinh _ => .normalOnly
  | .sinhd _ => .normalOnly
  | .sinhq _ => .normalOnly
  | .coshm _ => .normalOnly
  | .cosh _ => .normalOnly
  | .coshd _ => .normalOnly
  | .coshq _ => .normalOnly
  | .tanhm _ => .normalOnly
  | .tanh _ => .normalOnly
  | .tanhd _ => .normalOnly
  | .tanhq _ => .normalOnly
  | .asnhm _ => .normalOnly
  | .asnh _ => .normalOnly
  | .asnhd _ => .normalOnly
  | .asnhq _ => .normalOnly
  | .acshm _ => .normalOnly
  | .acsh _ => .normalOnly
  | .acshd _ => .normalOnly
  | .acshq _ => .normalOnly
  | .atnhm _ => .normalOnly
  | .atnh _ => .normalOnly
  | .atnhd _ => .normalOnly
  | .atnhq _ => .normalOnly
  | .sqrm _ => .normalOnly
  | .sqr _ => .normalOnly
  | .sqrd _ => .normalOnly
  | .sqrq _ => .normalOnly
  | .qbrm _ => .normalOnly
  | .qbr _ => .normalOnly
  | .qbrd _ => .normalOnly
  | .qbrq _ => .normalOnly
  | .logm _ => .normalOnly
  | .log _ => .normalOnly
  | .logd _ => .normalOnly
  | .logq _ => .normalOnly
  | .expm _ => .normalOnly
  | .exp _ => .normalOnly
  | .expd _ => .normalOnly
  | .expq _ => .normalOnly
  | .clrq _ => .normalOnly
  | .absq _ => .normalOnly
  | .sgnq _ => .normalOnly
  | .negq _ => .normalOnly

/-- Whether a mode's decode table has the group. Compact Mode, whose field layouts the source does
not give, has none (30_encoding.md R113). -/
def Mode.hasGroup : Mode → Availability → Bool
  | .normal, _ => true
  | .simple, .transfer => true
  | .simple, .operate => true
  | .simple, .normalOnly => false
  | .localMode, .transfer => true
  | .localMode, .operate => false
  | .localMode, .normalOnly => false
  | .compact, _ => false

/-- An instruction that mode `m` can encode, with operands its format can hold. -/
def Instr.wellFormed (m : Mode) (i : Instr) : Bool :=
  m.hasGroup i.availability && i.operandsOk

end Sys2Proof
end

