-- ==== Sys2Proof/Decode.lean ====
section
/-! DEFINITION. The decoder (30_encoding.md R81 to R99, R110 to R114), total on any halfwords, and the
encoder written from the same tables. -/

namespace Sys2Proof

/-! ### Fields of the halfwords -/

/-- The opcode prefix `h[15:13]` (R111, R112). -/
def opPrefix (h : Half) : BitVec 3 := h.extractLsb' 13 3

/-- The rest of the opcode, `h[12:9]`: `op7` of R84 without its prefix. -/
def opRest (h : Half) : BitVec 4 := h.extractLsb' 9 4

/-- The digit `F2 = h[8:6]` (00_scope.md R14). -/
def digit2 (h : Half) : BitVec 3 := h.extractLsb' 6 3

/-- The digit `F1 = h[5:3]` (00_scope.md R14). -/
def digit1 (h : Half) : BitVec 3 := h.extractLsb' 3 3

/-- The digit `F0 = h[2:0]` (00_scope.md R14). -/
def digit0 (h : Half) : BitVec 3 := h.extractLsb' 0 3

/-- A first halfword from its prefix, the rest of its opcode and its three low digits. -/
def firstHalf (p : BitVec 3) (rest : BitVec 4) (f2 f1 f0 : BitVec 3) : Half :=
  p ++ rest ++ f2 ++ f1 ++ f0

/-- The address of a second halfword, `s[15:1] ++ 0b0` (20_memory.md R60). -/
def addressField (s : Half) : Half := s.extractLsb' 1 15 ++ 0#1

/-- The opcode extension bit `e = s[0]` (R87). -/
def extensionBit (s : Half) : Bool := s.getLsbD 0

/-- A second halfword holding an address and the extension bit `e` (R84). -/
def addressHalf (addr : Half) (e : Bool) : Half := addr.extractLsb' 1 15 ++ BitVec.ofBool e

/-- The opcode prefix of the 32-bit instructions in each mode (R84, R111, R112; R110 for Compact). -/
def Mode.transferPrefix : Mode → BitVec 3
  | .normal => 0b111#3
  | .simple => 0b000#3
  | .localMode => 0b010#3
  | .compact => 0b011#3

/-- The extension bit of the multiple-register instructions: 1 in Normal Mode, 0 in the others (R85, R111). -/
def Mode.multipleBit : Mode → Bool
  | .normal => true
  | .simple => false
  | .localMode => false
  | .compact => false

/-- The default `ES_LAYOUT`, the table of R90. DESIGN CHOICE of the spec (92_eei_decisions.md D20), log entry 12. -/
def defaultEsLayout : EsLayout :=
  { rDAt := 6, rSAt := 3, connAt := 9, nAt := 1, mustBeZero := 0xE181#16 }

/-- The bits of the second halfword that hold the connective and the count. -/
def EsLayout.fieldBits (lay : EsLayout) : Half := (0xF#16 <<< lay.connAt) ||| (0x3F#16 <<< lay.nAt)

/-- The layouts a launch may give: the two register digits of `160xx0`, the connective and the count apart from
each other within the twelve free bits of `0xxxx0`, and no field bit among those that must be zero (R90). -/
def EsLayout.valid (lay : EsLayout) : Bool :=
  ((lay.rDAt == 6 && lay.rSAt == 3) || (lay.rDAt == 3 && lay.rSAt == 6)) &&
    decide (1 ≤ lay.connAt) && decide (lay.connAt ≤ 9) && decide (1 ≤ lay.nAt) && decide (lay.nAt ≤ 7) &&
    (decide (lay.connAt + 4 ≤ lay.nAt) || decide (lay.nAt + 6 ≤ lay.connAt)) &&
    lay.mustBeZero &&& 0xE001#16 == 0xE001#16 && lay.mustBeZero &&& lay.fieldBits == 0#16

/-! ### Condition and function codes -/

/-- The condition of a 4-bit code; the five codes the tables skip have none (10_state.md R34). -/
def condOfCode (c : BitVec 4) : Option Cond :=
  match c.toNat with
  | 0o1 => some .low
  | 0o2 => some .equal
  | 0o3 => some .lowOrEqual
  | 0o4 => some .high
  | 0o5 => some .notEqual
  | 0o6 => some .highOrEqual
  | 0o7 => some .noOverflow
  | 0o10 => some .overflow
  | 0o12 => some .carry
  | 0o13 => some .noCarry
  | 0o17 => some .always
  | _ => none

/-- The code of a condition (10_state.md R34). -/
def Cond.code : Cond → BitVec 4
  | .low => 0o1#4
  | .equal => 0o2#4
  | .lowOrEqual => 0o3#4
  | .high => 0o4#4
  | .notEqual => 0o5#4
  | .highOrEqual => 0o6#4
  | .noOverflow => 0o7#4
  | .overflow => 0o10#4
  | .carry => 0o12#4
  | .noCarry => 0o13#4
  | .always => 0o17#4

/-- The floating-point type of `h[12:11]` (46_math_functions.md R323). -/
def fpTypeOfCode (ty : BitVec 2) : FpType :=
  match ty.toNat with
  | 0 => .m
  | 1 => .f
  | 2 => .d
  | _ => .q

/-- The code of a floating-point type. -/
def FpType.code : FpType → BitVec 2
  | .m => 0#2
  | .f => 1#2
  | .d => 2#2
  | .q => 3#2

/-- The function of `h[10:6]` (46_math_functions.md R323); the codes it skips have none. -/
def fpFnOfCode (fn : BitVec 5) : Option FpFn :=
  match fn.toNat with
  | 0o0 => some .sin
  | 0o1 => some .cos
  | 0o2 => some .tan
  | 0o4 => some .asn
  | 0o5 => some .acs
  | 0o6 => some .atn
  | 0o10 => some .sinh
  | 0o11 => some .cosh
  | 0o12 => some .tanh
  | 0o14 => some .asnh
  | 0o15 => some .acsh
  | 0o16 => some .atnh
  | 0o20 => some .sqr
  | 0o21 => some .qbr
  | 0o22 => some .log
  | 0o23 => some .exp
  | 0o24 => some .clr
  | 0o25 => some .abs
  | 0o26 => some .sgn
  | 0o27 => some .neg
  | _ => none

/-- The code of a function. -/
def FpFn.code : FpFn → BitVec 5
  | .sin => 0o0#5
  | .cos => 0o1#5
  | .tan => 0o2#5
  | .asn => 0o4#5
  | .acs => 0o5#5
  | .atn => 0o6#5
  | .sinh => 0o10#5
  | .cosh => 0o11#5
  | .tanh => 0o12#5
  | .asnh => 0o14#5
  | .acsh => 0o15#5
  | .atnh => 0o16#5
  | .sqr => 0o20#5
  | .qbr => 0o21#5
  | .log => 0o22#5
  | .exp => 0o23#5
  | .clr => 0o24#5
  | .abs => 0o25#5
  | .sgn => 0o26#5
  | .neg => 0o27#5

/-- The operation of `sop` (R92); code 2 is no shift. -/
def shiftOpOfCode (sop : BitVec 3) : Option ShiftOp :=
  match sop.toNat with
  | 0 => some .shl
  | 1 => some .shr
  | 3 => some .asr
  | 4 => some .rol
  | 5 => some .ror
  | 6 => some .rlc
  | 7 => some .rrc
  | _ => none

/-- The code `sop` of a shift operation (R92). -/
def ShiftOp.code : ShiftOp → BitVec 3
  | .shl => 0#3
  | .shr => 1#3
  | .asr => 3#3
  | .rol => 4#3
  | .ror => 5#3
  | .rlc => 6#3
  | .rrc => 7#3

/-! ### The instruction of each row -/

/-- What a decoder finds (R98): an instruction of the page, an encoding that no row lists, or a listed
instruction with a reserved field value (R120). -/
inductive Decoded where
  | instr (i : Instr)
  | unlisted
  | reserved
  deriving DecidableEq, Repr

/-- The jump on the status word with condition `c` (R85, row 13 of R98). -/
def jumpOf (c : Cond) (rX rB : RegNum) (addr : Half) : Instr :=
  match c with
  | .low => .jl rX rB addr
  | .equal => .je rX rB addr
  | .lowOrEqual => .jle rX rB addr
  | .high => .jh rX rB addr
  | .notEqual => .jne rX rB addr
  | .highOrEqual => .jhe rX rB addr
  | .noOverflow => .jnv rX rB addr
  | .overflow => .jv rX rB addr
  | .carry => .jc rX rB addr
  | .noCarry => .jnc rX rB addr
  | .always => .jmp rX rB addr

/-- The jump on the saved condition codes with condition `c` (row 14 of R98); there is none for "always". -/
def savedJumpOf (c : Cond) (rX rB : RegNum) (addr : Half) : Decoded :=
  match c with
  | .low => .instr (.jvl rX rB addr)
  | .equal => .instr (.jve rX rB addr)
  | .lowOrEqual => .instr (.jvle rX rB addr)
  | .high => .instr (.jvh rX rB addr)
  | .notEqual => .instr (.jvne rX rB addr)
  | .highOrEqual => .instr (.jvhe rX rB addr)
  | .noOverflow => .instr (.jvnv rX rB addr)
  | .overflow => .instr (.jvv rX rB addr)
  | .carry => .instr (.jvc rX rB addr)
  | .noCarry => .instr (.jvnc rX rB addr)
  | .always => .unlisted

/-- The long branch with condition `c` (R88, row 12 of R98). -/
def longBranchOf (c : Cond) (disp : Half) : Instr :=
  match c with
  | .low => .lbl disp
  | .equal => .lbe disp
  | .lowOrEqual => .lble disp
  | .high => .lbh disp
  | .notEqual => .lbne disp
  | .highOrEqual => .lbhe disp
  | .noOverflow => .lbnv disp
  | .overflow => .lbv disp
  | .carry => .lbc disp
  | .noCarry => .lbnc disp
  | .always => .lbra disp

/-- The 16-bit branch with condition `c` (R95, row 5 of R98). -/
def branchOf (c : Cond) (disp : BitVec 6) : Instr :=
  match c with
  | .low => .bl disp
  | .equal => .be disp
  | .lowOrEqual => .ble disp
  | .high => .bh disp
  | .notEqual => .bne disp
  | .highOrEqual => .bhe disp
  | .noOverflow => .bnv disp
  | .overflow => .bv disp
  | .carry => .bc disp
  | .noCarry => .bnc disp
  | .always => .bra disp

/-- The return with condition `c` (R95, row 6 of R98). -/
def returnOf (c : Cond) : Instr :=
  match c with
  | .low => .rl
  | .equal => .re
  | .lowOrEqual => .rle
  | .high => .rh
  | .notEqual => .rne
  | .highOrEqual => .rhe
  | .noOverflow => .rnv
  | .overflow => .rv
  | .carry => .rc
  | .noCarry => .rnc
  | .always => .rss

/-- The byte shift with operation `op` (R92). -/
def byteShiftOf (op : ShiftOp) (r : RegNum) (n : BitVec 3) : Instr :=
  match op with
  | .shl => .shlb r n
  | .shr => .shrb r n
  | .asr => .asrb r n
  | .rol => .rolb r n
  | .ror => .rorb r n
  | .rlc => .rlcb r n
  | .rrc => .rrcb r n

/-- The halfword shift with operation `op` (R92). -/
def halfwordShiftOf (op : ShiftOp) (r : RegNum) (n : BitVec 4) : Instr :=
  match op with
  | .shl => .shlh r n
  | .shr => .shrh r n
  | .asr => .asrh r n
  | .rol => .rolh r n
  | .ror => .rorh r n
  | .rlc => .rlch r n
  | .rrc => .rrch r n

/-- The word shift with operation `op` (R92). -/
def wordShiftOf (op : ShiftOp) (r : RegNum) (n : BitVec 5) : Instr :=
  match op with
  | .shl => .shl r n
  | .shr => .shr r n
  | .asr => .asr r n
  | .rol => .rol r n
  | .ror => .ror r n
  | .rlc => .rlc r n
  | .rrc => .rrc r n

/-- The long shift with operation `op` (R92). -/
def longShiftOf (op : ShiftOp) (r : RegNum) (n : BitVec 6) : Instr :=
  match op with
  | .shl => .shll r n
  | .shr => .shrl r n
  | .asr => .asrl r n
  | .rol => .roll r n
  | .ror => .rorl r n
  | .rlc => .rlcl r n
  | .rrc => .rrcl r n

/-- One of four instructions by floating-point type. -/
def byType (ty : FpType) (im i_ id iq : Instr) : Decoded :=
  match ty with
  | .m => .instr im
  | .f => .instr i_
  | .d => .instr id
  | .q => .instr iq

/-- The function instruction of a type and a function code; CLR, ABS, SGN, NEG exist for type Q only
(46_math_functions.md R323). -/
def functionOf (ty : FpType) (fn : FpFn) (r : RegNum) : Decoded :=
  match fn with
  | .sin => byType ty (.sinm r) (.sin r) (.sind r) (.sinq r)
  | .cos => byType ty (.cosm r) (.cos r) (.cosd r) (.cosq r)
  | .tan => byType ty (.tanm r) (.tan r) (.tand r) (.tanq r)
  | .asn => byType ty (.asnm r) (.asn r) (.asnd r) (.asnq r)
  | .acs => byType ty (.acsm r) (.acs r) (.acsd r) (.acsq r)
  | .atn => byType ty (.atnm r) (.atn r) (.atnd r) (.atnq r)
  | .sinh => byType ty (.sinhm r) (.sinh r) (.sinhd r) (.sinhq r)
  | .cosh => byType ty (.coshm r) (.cosh r) (.coshd r) (.coshq r)
  | .tanh => byType ty (.tanhm r) (.tanh r) (.tanhd r) (.tanhq r)
  | .asnh => byType ty (.asnhm r) (.asnh r) (.asnhd r) (.asnhq r)
  | .acsh => byType ty (.acshm r) (.acsh r) (.acshd r) (.acshq r)
  | .atnh => byType ty (.atnhm r) (.atnh r) (.atnhd r) (.atnhq r)
  | .sqr => byType ty (.sqrm r) (.sqr r) (.sqrd r) (.sqrq r)
  | .qbr => byType ty (.qbrm r) (.qbr r) (.qbrd r) (.qbrq r)
  | .log => byType ty (.logm r) (.log r) (.logd r) (.logq r)
  | .exp => byType ty (.expm r) (.exp r) (.expd r) (.expq r)
  | .clr => if ty = .q then .instr (.clrq r) else .unlisted
  | .abs => if ty = .q then .instr (.absq r) else .unlisted
  | .sgn => if ty = .q then .instr (.sgnq r) else .unlisted
  | .neg => if ty = .q then .instr (.negq r) else .unlisted

/-- The memory form of the multiple-register instruction of opcodes 162 to 167 (R85, row 11 of R98). -/
def multipleOf (rest : BitVec 4) (r1 r2 rB : RegNum) (addr : Half) : Decoded :=
  match rest.toNat with
  | 2 => .instr (.lmu r1 r2 rB addr)
  | 3 => .instr (.stmu r1 r2 rB addr)
  | 4 => .instr (.lmubr r1 r2 rB addr)
  | 5 => .instr (.stmubr r1 r2 rB addr)
  | 6 => .instr (.lmuq r1 r2 rB addr)
  | 7 => .instr (.stmuq r1 r2 rB addr)
  | _ => .unlisted

/-- The stack form of the multiple-register instruction of opcodes 162 to 167 (R89, row 10 of R98). -/
def stackOf (rest : BitVec 4) (r1 r2 : RegNum) : Decoded :=
  match rest.toNat with
  | 2 => .instr (.lmuPop r1 r2)
  | 3 => .instr (.stmuPush r1 r2)
  | 4 => .instr (.lmubrPop r1 r2)
  | 5 => .instr (.stmubrPush r1 r2)
  | 6 => .instr (.lmuqPop r1 r2)
  | 7 => .instr (.stmuqPush r1 r2)
  | _ => .unlisted

/-- The supplementary load or store `k = F2` (R85, row 17 of R98). -/
def supplementaryOf (k : BitVec 3) (r rB : RegNum) (addr : Half) : Instr :=
  match k.toNat with
  | 0 => .slbr r rB addr
  | 1 => .sstbr r rB addr
  | 2 => .slsb r rB addr
  | 3 => .sssb r rB addr
  | 4 => .slpsb r rB addr
  | 5 => .sspsb r rB addr
  | 6 => .slasb r rB addr
  | _ => .ssasb r rB addr

/-- The single-operand instruction `uop = F1` of word or long width (R93, row 3 of R98). -/
def singleOf (long : Bool) (uop : BitVec 3) (r : RegNum) : Decoded :=
  match uop.toNat with
  | 0 => .instr (if long then .clrl r else .clr r)
  | 1 => .instr (if long then .absl r else .abs r)
  | 2 => .instr (if long then .invl r else .inv r)
  | 3 => .instr (if long then .negl r else .neg r)
  | _ => .unlisted

/-! ### The decoder -/

/-- ESL or ESR, with its fields where the layout says (row 8 of R98). -/
def decodeExtensible (lay : EsLayout) (left : Bool) (h s : Half) : Decoded :=
  if s &&& lay.mustBeZero = 0#16 then
    let rD := h.extractLsb' lay.rDAt 3
    let rS := h.extractLsb' lay.rSAt 3
    let conn := s.extractLsb' lay.connAt 4
    let n := s.extractLsb' lay.nAt 6
    .instr (if left then .esl rD rS conn n else .esr rD rS conn n)
  else .reserved

/-- The 32-bit instructions and the stack forms (rows 8 to 18 of R98), `rest = h[12:9]`; the stack forms
and ESL, ESR are in Normal Mode only (R111). -/
def decodeTransfer (lay : EsLayout) (m : Mode) (h s : Half) : Decoded :=
  let rest := opRest h
  let f2 := digit2 h
  let f1 := digit1 h
  let f0 := digit0 h
  match rest.toNat with
  | 0 =>
    if f0 = 0#3 then (if m = .normal then decodeExtensible lay true h s else .unlisted)
    else if extensionBit s then .unlisted
    else .instr (.jms f2 f1 f0 (addressField s))
  | 1 => if f0 = 0#3 ∧ m = .normal then decodeExtensible lay false h s else .unlisted
  | 2 | 3 | 4 | 5 | 6 | 7 =>
    if f0 = 0#3 then (if m = .normal then stackOf rest f2 f1 else .unlisted)
    else if extensionBit s != m.multipleBit then .unlisted
    else if s.getLsbD 1 then .reserved
    else multipleOf rest f2 f1 f0 (addressField s)
  | 8 | 9 =>
    match condOfCode (rest.extractLsb' 0 1 ++ f2) with
    | none => .unlisted
    | some c =>
      if f0 = 0#3 then .instr (longBranchOf c s)
      else if extensionBit s then savedJumpOf c f1 f0 (addressField s)
      else .instr (jumpOf c f1 f0 (addressField s))
  | 10 =>
    if f0 = 0#3 then .instr (.lbxh f2 f1 s)
    else if extensionBit s then
      (if s.getLsbD 1 then .reserved else .instr (supplementaryOf f2 f1 f0 (addressField s)))
    else .instr (.jxh f2 f1 f0 (addressField s))
  | 11 =>
    if f0 = 0#3 then .instr (.lbxle f2 f1 s)
    else if extensionBit s then .unlisted
    else .instr (.jxle f2 f1 f0 (addressField s))
  | 12 => if f0 = 0#3 then .instr (.lbrs f2 s) else .unlisted
  | _ => .unlisted

/-- The byte, halfword and word shifts: type and count by the prefix code of R92 (row 1 of R98). -/
def decodeNarrowShift (op : ShiftOp) (r : RegNum) (cc : BitVec 6) : Decoded :=
  if cc.getLsbD 5 then
    if cc.getLsbD 4 then
      if cc.getLsbD 3 then .reserved
      else .instr (byteShiftOf op r (cc.extractLsb' 0 3))
    else .instr (halfwordShiftOf op r (cc.extractLsb' 0 4))
  else .instr (wordShiftOf op r (cc.extractLsb' 0 5))

/-- Opcode 022: the single-operand and normalize instructions (rows 3 and 4 of R98). -/
def decodeSingle (f2 f1 f0 : BitVec 3) : Decoded :=
  match f2.toNat with
  | 2 => singleOf false f1 f0
  | 3 => singleOf true f1 f0
  | 4 => .instr (.nb f1 f0)
  | 5 => .instr (.nh f1 f0)
  | 6 => .instr (.n f1 f0)
  | 7 => .instr (.nl f1 f0)
  | _ => .unlisted

/-- Opcodes 020 to 037 (rows 1 to 4 of R98): `h[12]` tells the long shifts and opcode 022 from the others. -/
def decodeOperate (h : Half) : Decoded :=
  let rest := opRest h
  let sop := rest.extractLsb' 0 3
  let cc := digit1 h ++ digit0 h
  match shiftOpOfCode sop with
  | some op =>
    if rest.getLsbD 3 then decodeNarrowShift op (digit2 h) cc
    else .instr (longShiftOf op (digit2 h) cc)
  | none => if rest.getLsbD 3 then .unlisted else decodeSingle (digit2 h) (digit1 h) (digit0 h)

/-- Opcodes 100 to 117 (rows 5 and 6 of R98): displacement zero is the return. -/
def decodeBranch (h : Half) : Decoded :=
  if digit0 h = 0#3 then
    match condOfCode (opRest h) with
    | none => .unlisted
    | some c =>
      let disp := digit2 h ++ digit1 h
      if disp = 0#6 then .instr (returnOf c) else .instr (branchOf c disp)
  else .unlisted

/-- Opcodes 120 to 137 (row 7 of R98): the type is `h[12:11]`, the function `h[10:6]`. -/
def decodeFunction (h : Half) : Decoded :=
  if digit0 h = 0#3 then
    match fpFnOfCode ((opRest h).extractLsb' 0 2 ++ digit2 h) with
    | none => .unlisted
    | some fn => functionOf (fpTypeOfCode ((opRest h).extractLsb' 2 2)) fn (digit1 h)
  else .unlisted

/-- The decoder of mode `m` under an `ES_LAYOUT` (R98, R111, R112, R114). `s` is read for a 32-bit instruction only.
Compact Mode decodes to nothing (R113); the step refuses it before decoding. -/
def decode (lay : EsLayout) (m : Mode) (h s : Half) : Decoded :=
  if m = .compact then .unlisted
  else if opPrefix h = m.transferPrefix then decodeTransfer lay m h s
  else if opPrefix h = 0b001#3 ∧ m ≠ .localMode then decodeOperate h
  else if opPrefix h = 0b100#3 ∧ m = .normal then decodeBranch h
  else if opPrefix h = 0b101#3 ∧ m = .normal then decodeFunction h
  else .unlisted

/-- Whether R98 reads a second halfword after `h`: a row that names `s`, or whose format has one, has the
conditions on `h` that hold here (log entry 11). -/
def needsSecond (m : Mode) (h : Half) : Bool :=
  m != .compact && opPrefix h == m.transferPrefix &&
    match (opRest h).toNat with
    | 0 => digit0 h != 0#3 || m == .normal
    | 1 => digit0 h == 0#3 && m == .normal
    | 2 | 3 | 4 | 5 | 6 | 7 => digit0 h != 0#3
    | 8 | 9 | 10 | 11 => true
    | 12 => digit0 h == 0#3
    | _ => false

/-! ### The encoder -/

/-- The first and second halfword of format MR32 (R84). -/
def encodeMr32 (m : Mode) (rest : BitVec 4) (f2 f1 rB : BitVec 3) (addr : Half) (e : Bool) : List Half :=
  [firstHalf m.transferPrefix rest f2 f1 rB, addressHalf addr e]

/-- A jump (`e = 0`) or saved-condition jump (`e = 1`) with condition `c` (R85). -/
def encodeJump (m : Mode) (c : Cond) (e : Bool) (rX rB : RegNum) (addr : Half) : List Half :=
  encodeMr32 m (0b100#3 ++ c.code.extractLsb' 3 1) (c.code.extractLsb' 0 3) rX rB addr e

/-- Format LB32 (R88); an ignored digit is assembled as zero. -/
def encodeLb32 (m : Mode) (rest : BitVec 4) (f2 f1 : BitVec 3) (disp : Half) : List Half :=
  [firstHalf m.transferPrefix rest f2 f1 0#3, disp]

/-- A long branch with condition `c` (R88). -/
def encodeLongBranch (m : Mode) (c : Cond) (disp : Half) : List Half :=
  encodeLb32 m (0b100#3 ++ c.code.extractLsb' 3 1) (c.code.extractLsb' 0 3) 0#3 disp

/-- Format STK16 (R89). -/
def encodeStack (rest : BitVec 4) (r1 r2 : RegNum) : List Half :=
  [firstHalf 0b111#3 rest r1 r2 0#3]

/-- Format ES32, with its fields where the layout says (R90). -/
def encodeExtensible (lay : EsLayout) (rest : BitVec 4) (rD rS : RegNum) (conn : BitVec 4) (n : BitVec 6) :
    List Half :=
  [firstHalf 0b111#3 rest 0#3 0#3 0#3 ||| (rD.setWidth 16 <<< lay.rDAt) |||
      (rS.setWidth 16 <<< lay.rSAt),
    (conn.setWidth 16 <<< lay.connAt) ||| (n.setWidth 16 <<< lay.nAt)]

/-- Format SH16 with the six bits `cc` (R92); `narrow` is the bit `w = h[12]`. -/
def encodeShift (narrow : Bool) (op : ShiftOp) (r : RegNum) (cc : BitVec 6) : List Half :=
  [firstHalf 0b001#3 (BitVec.ofBool narrow ++ op.code) r (cc.extractLsb' 3 3) (cc.extractLsb' 0 3)]

/-- Formats SO16 and NM16 (R93, R94). -/
def encodeSingle (f2 f1 f0 : BitVec 3) : List Half :=
  [firstHalf 0b001#3 0b0010#4 f2 f1 f0]

/-- Format BR16 (R95); the return has displacement zero. -/
def encodeBranch (c : Cond) (disp : BitVec 6) : List Half :=
  [firstHalf 0b100#3 c.code (disp.extractLsb' 3 3) (disp.extractLsb' 0 3) 0#3]

/-- Format FN16 (R96). -/
def encodeFunction (ty : FpType) (fn : FpFn) (r : RegNum) : List Half :=
  [firstHalf 0b101#3 (ty.code ++ fn.code.extractLsb' 3 2) (fn.code.extractLsb' 0 3) r 0#3]

/-- The halfwords of a well-formed instruction in mode `m` under an `ES_LAYOUT`, the first first. -/
def encode (lay : EsLayout) (m : Mode) : Instr → List Half
  | .jms rR rX rB addr => encodeMr32 m 0b0000#4 rR rX rB addr false
  | .lmu r1 r2 rB addr => encodeMr32 m 0b0010#4 r1 r2 rB addr m.multipleBit
  | .stmu r1 r2 rB addr => encodeMr32 m 0b0011#4 r1 r2 rB addr m.multipleBit
  | .lmubr r1 r2 rB addr => encodeMr32 m 0b0100#4 r1 r2 rB addr m.multipleBit
  | .stmubr r1 r2 rB addr => encodeMr32 m 0b0101#4 r1 r2 rB addr m.multipleBit
  | .lmuq r1 r2 rB addr => encodeMr32 m 0b0110#4 r1 r2 rB addr m.multipleBit
  | .stmuq r1 r2 rB addr => encodeMr32 m 0b0111#4 r1 r2 rB addr m.multipleBit
  | .lbl disp => encodeLongBranch m .low disp
  | .lbe disp => encodeLongBranch m .equal disp
  | .lble disp => encodeLongBranch m .lowOrEqual disp
  | .lbh disp => encodeLongBranch m .high disp
  | .lbne disp => encodeLongBranch m .notEqual disp
  | .lbhe disp => encodeLongBranch m .highOrEqual disp
  | .lbnv disp => encodeLongBranch m .noOverflow disp
  | .lbv disp => encodeLongBranch m .overflow disp
  | .lbc disp => encodeLongBranch m .carry disp
  | .lbnc disp => encodeLongBranch m .noCarry disp
  | .lbra disp => encodeLongBranch m .always disp
  | .lbxh cR lR disp => encodeLb32 m 0b1010#4 cR lR disp
  | .lbxle cR lR disp => encodeLb32 m 0b1011#4 cR lR disp
  | .lbrs rR disp => encodeLb32 m 0b1100#4 rR 0#3 disp
  | .jl rX rB addr => encodeJump m .low false rX rB addr
  | .je rX rB addr => encodeJump m .equal false rX rB addr
  | .jle rX rB addr => encodeJump m .lowOrEqual false rX rB addr
  | .jh rX rB addr => encodeJump m .high false rX rB addr
  | .jne rX rB addr => encodeJump m .notEqual false rX rB addr
  | .jhe rX rB addr => encodeJump m .highOrEqual false rX rB addr
  | .jnv rX rB addr => encodeJump m .noOverflow false rX rB addr
  | .jv rX rB addr => encodeJump m .overflow false rX rB addr
  | .jc rX rB addr => encodeJump m .carry false rX rB addr
  | .jnc rX rB addr => encodeJump m .noCarry false rX rB addr
  | .jmp rX rB addr => encodeJump m .always false rX rB addr
  | .jvl rX rB addr => encodeJump m .low true rX rB addr
  | .jve rX rB addr => encodeJump m .equal true rX rB addr
  | .jvle rX rB addr => encodeJump m .lowOrEqual true rX rB addr
  | .jvh rX rB addr => encodeJump m .high true rX rB addr
  | .jvne rX rB addr => encodeJump m .notEqual true rX rB addr
  | .jvhe rX rB addr => encodeJump m .highOrEqual true rX rB addr
  | .jvnv rX rB addr => encodeJump m .noOverflow true rX rB addr
  | .jvv rX rB addr => encodeJump m .overflow true rX rB addr
  | .jvc rX rB addr => encodeJump m .carry true rX rB addr
  | .jvnc rX rB addr => encodeJump m .noCarry true rX rB addr
  | .jxh cR lR rB addr => encodeMr32 m 0b1010#4 cR lR rB addr false
  | .jxle cR lR rB addr => encodeMr32 m 0b1011#4 cR lR rB addr false
  | .slbr r rB addr => encodeMr32 m 0b1010#4 0#3 r rB addr true
  | .sstbr r rB addr => encodeMr32 m 0b1010#4 1#3 r rB addr true
  | .slsb r rB addr => encodeMr32 m 0b1010#4 2#3 r rB addr true
  | .sssb r rB addr => encodeMr32 m 0b1010#4 3#3 r rB addr true
  | .slpsb r rB addr => encodeMr32 m 0b1010#4 4#3 r rB addr true
  | .sspsb r rB addr => encodeMr32 m 0b1010#4 5#3 r rB addr true
  | .slasb r rB addr => encodeMr32 m 0b1010#4 6#3 r rB addr true
  | .ssasb r rB addr => encodeMr32 m 0b1010#4 7#3 r rB addr true
  | .lmuPop r1 r2 => encodeStack 0b0010#4 r1 r2
  | .stmuPush r1 r2 => encodeStack 0b0011#4 r1 r2
  | .lmubrPop r1 r2 => encodeStack 0b0100#4 r1 r2
  | .stmubrPush r1 r2 => encodeStack 0b0101#4 r1 r2
  | .lmuqPop r1 r2 => encodeStack 0b0110#4 r1 r2
  | .stmuqPush r1 r2 => encodeStack 0b0111#4 r1 r2
  | .esl rD rS conn n => encodeExtensible lay 0b0000#4 rD rS conn n
  | .esr rD rS conn n => encodeExtensible lay 0b0001#4 rD rS conn n
  | .shlb r n => encodeShift true .shl r (0b110#3 ++ n)
  | .shrb r n => encodeShift true .shr r (0b110#3 ++ n)
  | .asrb r n => encodeShift true .asr r (0b110#3 ++ n)
  | .rolb r n => encodeShift true .rol r (0b110#3 ++ n)
  | .rorb r n => encodeShift true .ror r (0b110#3 ++ n)
  | .rlcb r n => encodeShift true .rlc r (0b110#3 ++ n)
  | .rrcb r n => encodeShift true .rrc r (0b110#3 ++ n)
  | .shlh r n => encodeShift true .shl r (0b10#2 ++ n)
  | .shrh r n => encodeShift true .shr r (0b10#2 ++ n)
  | .asrh r n => encodeShift true .asr r (0b10#2 ++ n)
  | .rolh r n => encodeShift true .rol r (0b10#2 ++ n)
  | .rorh r n => encodeShift true .ror r (0b10#2 ++ n)
  | .rlch r n => encodeShift true .rlc r (0b10#2 ++ n)
  | .rrch r n => encodeShift true .rrc r (0b10#2 ++ n)
  | .shl r n => encodeShift true .shl r (0b0#1 ++ n)
  | .shr r n => encodeShift true .shr r (0b0#1 ++ n)
  | .asr r n => encodeShift true .asr r (0b0#1 ++ n)
  | .rol r n => encodeShift true .rol r (0b0#1 ++ n)
  | .ror r n => encodeShift true .ror r (0b0#1 ++ n)
  | .rlc r n => encodeShift true .rlc r (0b0#1 ++ n)
  | .rrc r n => encodeShift true .rrc r (0b0#1 ++ n)
  | .shll r n => encodeShift false .shl r n
  | .shrl r n => encodeShift false .shr r n
  | .asrl r n => encodeShift false .asr r n
  | .roll r n => encodeShift false .rol r n
  | .rorl r n => encodeShift false .ror r n
  | .rlcl r n => encodeShift false .rlc r n
  | .rrcl r n => encodeShift false .rrc r n
  | .clr r => encodeSingle 2#3 0#3 r
  | .clrl r => encodeSingle 3#3 0#3 r
  | .abs r => encodeSingle 2#3 1#3 r
  | .absl r => encodeSingle 3#3 1#3 r
  | .inv r => encodeSingle 2#3 2#3 r
  | .invl r => encodeSingle 3#3 2#3 r
  | .neg r => encodeSingle 2#3 3#3 r
  | .negl r => encodeSingle 3#3 3#3 r
  | .nb rD rS => encodeSingle 4#3 rD rS
  | .nh rD rS => encodeSingle 5#3 rD rS
  | .n rD rS => encodeSingle 6#3 rD rS
  | .nl rD rS => encodeSingle 7#3 rD rS
  | .bl disp => encodeBranch .low disp
  | .be disp => encodeBranch .equal disp
  | .ble disp => encodeBranch .lowOrEqual disp
  | .bh disp => encodeBranch .high disp
  | .bne disp => encodeBranch .notEqual disp
  | .bhe disp => encodeBranch .highOrEqual disp
  | .bnv disp => encodeBranch .noOverflow disp
  | .bv disp => encodeBranch .overflow disp
  | .bc disp => encodeBranch .carry disp
  | .bnc disp => encodeBranch .noCarry disp
  | .bra disp => encodeBranch .always disp
  | .rl => encodeBranch .low 0#6
  | .re => encodeBranch .equal 0#6
  | .rle => encodeBranch .lowOrEqual 0#6
  | .rh => encodeBranch .high 0#6
  | .rne => encodeBranch .notEqual 0#6
  | .rhe => encodeBranch .highOrEqual 0#6
  | .rnv => encodeBranch .noOverflow 0#6
  | .rv => encodeBranch .overflow 0#6
  | .rc => encodeBranch .carry 0#6
  | .rnc => encodeBranch .noCarry 0#6
  | .rss => encodeBranch .always 0#6
  | .sinm r => encodeFunction .m .sin r
  | .sin r => encodeFunction .f .sin r
  | .sind r => encodeFunction .d .sin r
  | .sinq r => encodeFunction .q .sin r
  | .cosm r => encodeFunction .m .cos r
  | .cos r => encodeFunction .f .cos r
  | .cosd r => encodeFunction .d .cos r
  | .cosq r => encodeFunction .q .cos r
  | .tanm r => encodeFunction .m .tan r
  | .tan r => encodeFunction .f .tan r
  | .tand r => encodeFunction .d .tan r
  | .tanq r => encodeFunction .q .tan r
  | .asnm r => encodeFunction .m .asn r
  | .asn r => encodeFunction .f .asn r
  | .asnd r => encodeFunction .d .asn r
  | .asnq r => encodeFunction .q .asn r
  | .acsm r => encodeFunction .m .acs r
  | .acs r => encodeFunction .f .acs r
  | .acsd r => encodeFunction .d .acs r
  | .acsq r => encodeFunction .q .acs r
  | .atnm r => encodeFunction .m .atn r
  | .atn r => encodeFunction .f .atn r
  | .atnd r => encodeFunction .d .atn r
  | .atnq r => encodeFunction .q .atn r
  | .sinhm r => encodeFunction .m .sinh r
  | .sinh r => encodeFunction .f .sinh r
  | .sinhd r => encodeFunction .d .sinh r
  | .sinhq r => encodeFunction .q .sinh r
  | .coshm r => encodeFunction .m .cosh r
  | .cosh r => encodeFunction .f .cosh r
  | .coshd r => encodeFunction .d .cosh r
  | .coshq r => encodeFunction .q .cosh r
  | .tanhm r => encodeFunction .m .tanh r
  | .tanh r => encodeFunction .f .tanh r
  | .tanhd r => encodeFunction .d .tanh r
  | .tanhq r => encodeFunction .q .tanh r
  | .asnhm r => encodeFunction .m .asnh r
  | .asnh r => encodeFunction .f .asnh r
  | .asnhd r => encodeFunction .d .asnh r
  | .asnhq r => encodeFunction .q .asnh r
  | .acshm r => encodeFunction .m .acsh r
  | .acsh r => encodeFunction .f .acsh r
  | .acshd r => encodeFunction .d .acsh r
  | .acshq r => encodeFunction .q .acsh r
  | .atnhm r => encodeFunction .m .atnh r
  | .atnh r => encodeFunction .f .atnh r
  | .atnhd r => encodeFunction .d .atnh r
  | .atnhq r => encodeFunction .q .atnh r
  | .sqrm r => encodeFunction .m .sqr r
  | .sqr r => encodeFunction .f .sqr r
  | .sqrd r => encodeFunction .d .sqr r
  | .sqrq r => encodeFunction .q .sqr r
  | .qbrm r => encodeFunction .m .qbr r
  | .qbr r => encodeFunction .f .qbr r
  | .qbrd r => encodeFunction .d .qbr r
  | .qbrq r => encodeFunction .q .qbr r
  | .logm r => encodeFunction .m .log r
  | .log r => encodeFunction .f .log r
  | .logd r => encodeFunction .d .log r
  | .logq r => encodeFunction .q .log r
  | .expm r => encodeFunction .m .exp r
  | .exp r => encodeFunction .f .exp r
  | .expd r => encodeFunction .d .exp r
  | .expq r => encodeFunction .q .exp r
  | .clrq r => encodeFunction .q .clr r
  | .absq r => encodeFunction .q .abs r
  | .sgnq r => encodeFunction .q .sgn r
  | .negq r => encodeFunction .q .neg r

/-- The length of an instruction in bytes (R80). -/
def Instr.length : Instr → Nat
  | .jms _ _ _ _ => 4
  | .lmu _ _ _ _ => 4
  | .stmu _ _ _ _ => 4
  | .lmubr _ _ _ _ => 4
  | .stmubr _ _ _ _ => 4
  | .lmuq _ _ _ _ => 4
  | .stmuq _ _ _ _ => 4
  | .lbl _ => 4
  | .lbe _ => 4
  | .lble _ => 4
  | .lbh _ => 4
  | .lbne _ => 4
  | .lbhe _ => 4
  | .lbnv _ => 4
  | .lbv _ => 4
  | .lbc _ => 4
  | .lbnc _ => 4
  | .lbra _ => 4
  | .lbxh _ _ _ => 4
  | .lbxle _ _ _ => 4
  | .lbrs _ _ => 4
  | .jl _ _ _ => 4
  | .je _ _ _ => 4
  | .jle _ _ _ => 4
  | .jh _ _ _ => 4
  | .jne _ _ _ => 4
  | .jhe _ _ _ => 4
  | .jnv _ _ _ => 4
  | .jv _ _ _ => 4
  | .jc _ _ _ => 4
  | .jnc _ _ _ => 4
  | .jmp _ _ _ => 4
  | .jvl _ _ _ => 4
  | .jve _ _ _ => 4
  | .jvle _ _ _ => 4
  | .jvh _ _ _ => 4
  | .jvne _ _ _ => 4
  | .jvhe _ _ _ => 4
  | .jvnv _ _ _ => 4
  | .jvv _ _ _ => 4
  | .jvc _ _ _ => 4
  | .jvnc _ _ _ => 4
  | .jxh _ _ _ _ => 4
  | .jxle _ _ _ _ => 4
  | .slbr _ _ _ => 4
  | .sstbr _ _ _ => 4
  | .slsb _ _ _ => 4
  | .sssb _ _ _ => 4
  | .slpsb _ _ _ => 4
  | .sspsb _ _ _ => 4
  | .slasb _ _ _ => 4
  | .ssasb _ _ _ => 4
  | .lmuPop _ _ => 2
  | .stmuPush _ _ => 2
  | .lmubrPop _ _ => 2
  | .stmubrPush _ _ => 2
  | .lmuqPop _ _ => 2
  | .stmuqPush _ _ => 2
  | .esl _ _ _ _ => 4
  | .esr _ _ _ _ => 4
  | .shlb _ _ => 2
  | .shrb _ _ => 2
  | .asrb _ _ => 2
  | .rolb _ _ => 2
  | .rorb _ _ => 2
  | .rlcb _ _ => 2
  | .rrcb _ _ => 2
  | .shlh _ _ => 2
  | .shrh _ _ => 2
  | .asrh _ _ => 2
  | .rolh _ _ => 2
  | .rorh _ _ => 2
  | .rlch _ _ => 2
  | .rrch _ _ => 2
  | .shl _ _ => 2
  | .shr _ _ => 2
  | .asr _ _ => 2
  | .rol _ _ => 2
  | .ror _ _ => 2
  | .rlc _ _ => 2
  | .rrc _ _ => 2
  | .shll _ _ => 2
  | .shrl _ _ => 2
  | .asrl _ _ => 2
  | .roll _ _ => 2
  | .rorl _ _ => 2
  | .rlcl _ _ => 2
  | .rrcl _ _ => 2
  | .clr _ => 2
  | .clrl _ => 2
  | .abs _ => 2
  | .absl _ => 2
  | .inv _ => 2
  | .invl _ => 2
  | .neg _ => 2
  | .negl _ => 2
  | .nb _ _ => 2
  | .nh _ _ => 2
  | .n _ _ => 2
  | .nl _ _ => 2
  | .bl _ => 2
  | .be _ => 2
  | .ble _ => 2
  | .bh _ => 2
  | .bne _ => 2
  | .bhe _ => 2
  | .bnv _ => 2
  | .bv _ => 2
  | .bc _ => 2
  | .bnc _ => 2
  | .bra _ => 2
  | .rl => 2
  | .re => 2
  | .rle => 2
  | .rh => 2
  | .rne => 2
  | .rhe => 2
  | .rnv => 2
  | .rv => 2
  | .rc => 2
  | .rnc => 2
  | .rss => 2
  | .sinm _ => 2
  | .sin _ => 2
  | .sind _ => 2
  | .sinq _ => 2
  | .cosm _ => 2
  | .cos _ => 2
  | .cosd _ => 2
  | .cosq _ => 2
  | .tanm _ => 2
  | .tan _ => 2
  | .tand _ => 2
  | .tanq _ => 2
  | .asnm _ => 2
  | .asn _ => 2
  | .asnd _ => 2
  | .asnq _ => 2
  | .acsm _ => 2
  | .acs _ => 2
  | .acsd _ => 2
  | .acsq _ => 2
  | .atnm _ => 2
  | .atn _ => 2
  | .atnd _ => 2
  | .atnq _ => 2
  | .sinhm _ => 2
  | .sinh _ => 2
  | .sinhd _ => 2
  | .sinhq _ => 2
  | .coshm _ => 2
  | .cosh _ => 2
  | .coshd _ => 2
  | .coshq _ => 2
  | .tanhm _ => 2
  | .tanh _ => 2
  | .tanhd _ => 2
  | .tanhq _ => 2
  | .asnhm _ => 2
  | .asnh _ => 2
  | .asnhd _ => 2
  | .asnhq _ => 2
  | .acshm _ => 2
  | .acsh _ => 2
  | .acshd _ => 2
  | .acshq _ => 2
  | .atnhm _ => 2
  | .atnh _ => 2
  | .atnhd _ => 2
  | .atnhq _ => 2
  | .sqrm _ => 2
  | .sqr _ => 2
  | .sqrd _ => 2
  | .sqrq _ => 2
  | .qbrm _ => 2
  | .qbr _ => 2
  | .qbrd _ => 2
  | .qbrq _ => 2
  | .logm _ => 2
  | .log _ => 2
  | .logd _ => 2
  | .logq _ => 2
  | .expm _ => 2
  | .exp _ => 2
  | .expd _ => 2
  | .expq _ => 2
  | .clrq _ => 2
  | .absq _ => 2
  | .sgnq _ => 2
  | .negq _ => 2

/-! ### Bytes, and the words of the opcode table -/

/-- A halfword from its two bytes, the one at the lower address first (big-endian: 20_memory.md R51, R53). -/
def halfOfBytes (hi lo : Byte) : Half := hi ++ lo

/-- The byte at the lower address of a halfword. -/
def Half.highByte (h : Half) : Byte := h.extractLsb' 8 8

/-- The byte at the higher address of a halfword. -/
def Half.lowByte (h : Half) : Byte := h.extractLsb' 0 8

/-- The decoder on bytes: what stands first in them, and the bytes after it. Too few bytes decode to nothing. -/
def decodeBytes (lay : EsLayout) (m : Mode) : List Byte → Option (Decoded × List Byte)
  | b0 :: b1 :: rest =>
    if needsSecond m (halfOfBytes b0 b1) then
      match rest with
      | b2 :: b3 :: rest' => some (decode lay m (halfOfBytes b0 b1) (halfOfBytes b2 b3), rest')
      | _ => none
    else some (decode lay m (halfOfBytes b0 b1) 0#16, rest)
  | _ => none

/-- The four bytes, as the hardware stores them, of an instruction whose table word is `w`. A 32-bit row's
word is `h << 16 | s`, a 16-bit row's is `h` (spec/INDEX.md, "Reading opcode_table.json"; log entry 8); what
the row gives no bits is zero. -/
def tableWordBytes (nbits w : Nat) : List Byte :=
  let v := if nbits ≤ 16 then (w % 2 ^ 16) * 2 ^ 16 else w
  [BitVec.ofNat 8 (v / 2 ^ 24), BitVec.ofNat 8 (v / 2 ^ 16), BitVec.ofNat 8 (v / 2 ^ 8), BitVec.ofNat 8 v]

/-- The instruction that mode `m` decodes from bytes under the default `ES_LAYOUT`, that of the opcode table. -/
def instrOfBytes (m : Mode) (bytes : List Byte) : Option Instr :=
  match decodeBytes defaultEsLayout m bytes with
  | some (.instr i, _) => some i
  | some (.unlisted, _) => none
  | some (.reserved, _) => none
  | none => none

/-- The mode in which a table word is read: the present one where its decoder reads an instruction, else the
first of Normal, Simple and Local whose decoder does (the prefixes of R111, R112 keep the three apart). -/
def tableWordMode (m : Mode) (nbits w : Nat) : Mode :=
  let bytes := tableWordBytes nbits w
  if (instrOfBytes m bytes).isSome then m
  else if (instrOfBytes .normal bytes).isSome then .normal
  else if (instrOfBytes .simple bytes).isSome then .simple
  else if (instrOfBytes .localMode bytes).isSome then .localMode
  else m

/-- The instruction the decoder reads from a word of spec/opcode_table.json, in the mode whose row it is. -/
def decodeTableWord (nbits w : Nat) : Option Instr :=
  instrOfBytes (tableWordMode .normal nbits w) (tableWordBytes nbits w)

/-! ### Compact Mode, as encodings only -/

/-- One row of the Compact column of R110: a mnemonic, and its first halfword as fixed bits under a mask. -/
structure CompactRow where
  mnemonic : String
  mask : Half
  bits : Half
  /-- the last bit of the second halfword, where the pattern gives one -/
  extension : Option Bool
  deriving DecidableEq, Repr

/-- The first halfword lies in the row's pattern. -/
def CompactRow.covers (row : CompactRow) (h : Half) : Bool := h &&& row.mask == row.bits

/-- The Compact column of R110, transcribed. No decoder uses it: the field layouts are not in the source and
the patterns overlap (90_conflicts.md C7), so the mode is refused (R113). -/
def compactRows : List CompactRow :=
  [ ⟨"JMS", 0xFFC0#16, 0x6180#16, some false⟩,
    ⟨"JL", 0xFFC0#16, 0x63C0#16, some false⟩,
    ⟨"JE", 0xFFC0#16, 0x65C0#16, some false⟩,
    ⟨"JLE", 0xFFC0#16, 0x67C0#16, some false⟩,
    ⟨"JH", 0xFFC0#16, 0x69C0#16, some false⟩,
    ⟨"JNE", 0xFFC0#16, 0x6BC0#16, some false⟩,
    ⟨"JHE", 0xFFC0#16, 0x6DC0#16, some false⟩,
    ⟨"JNV", 0xFFC0#16, 0x6FC0#16, some false⟩,
    ⟨"JV", 0xFFC0#16, 0x71C0#16, some false⟩,
    ⟨"JC", 0xFFC0#16, 0x75C0#16, some false⟩,
    ⟨"JNC", 0xFFC0#16, 0x77C0#16, some false⟩,
    ⟨"JMP", 0xFFC0#16, 0x7FC0#16, some false⟩,
    ⟨"JVL", 0xFFC0#16, 0x63C0#16, some true⟩,
    ⟨"JVE", 0xFFC0#16, 0x65C0#16, some true⟩,
    ⟨"JVLE", 0xFFC0#16, 0x67C0#16, some true⟩,
    ⟨"JVH", 0xFFC0#16, 0x69C0#16, some true⟩,
    ⟨"JVNE", 0xFFC0#16, 0x6BC0#16, some true⟩,
    ⟨"JVHE", 0xFFC0#16, 0x6DC0#16, some true⟩,
    ⟨"JVNV", 0xFFC0#16, 0x6FC0#16, some true⟩,
    ⟨"JVV", 0xFFC0#16, 0x71C0#16, some true⟩,
    ⟨"JVC", 0xFFC0#16, 0x75C0#16, some true⟩,
    ⟨"JVNC", 0xFFC0#16, 0x77C0#16, some true⟩,
    ⟨"LBXH", 0xF1C7#16, 0x61C0#16, none⟩,
    ⟨"LBXLE", 0xF1C7#16, 0x71C0#16, none⟩,
    ⟨"LBRS", 0xFFC7#16, 0x71C0#16, none⟩ ]

end Sys2Proof
end

