-- ==== Sys2Proof/Machine/State.lean ====
section
/-! DEFINITION. The state of AR0202 (10_state.md R20 to R37), the reasons a step can stop
(60_exceptions.md R402), and the state after reset. -/

namespace Sys2Proof.Machine

/-- A file of eight registers of `w` bits (00_scope.md R8). -/
abbrev RegFile (w : Nat) := Vector (BitVec w) 8

/-- A status word, as the three abstract fields of 10_state.md R31. -/
structure Status where
  /-- the carry bit `C` -/
  c : Bool
  /-- the overflow condition `V` -/
  v : Bool
  /-- the sign indication `R` -/
  r : Sign
  deriving DecidableEq, Repr

/-- Memory: the bytes that the launch or a store has supplied, as address and byte with addresses strictly
rising (20_memory.md R50, 60_exceptions.md R404). An address that is not listed holds no value. -/
abbrev Memory := List Host.Cell

/-- The whole state of the machine (10_state.md R20), with the launch parameters of R37 and two fields of the
model's own: `draws` and `finished`. -/
structure State where
  /-- arithmetic/index registers (R21) -/
  x : RegFile 32
  /-- base registers, `b[0]` the stack pointer (R25, R26) -/
  b : RegFile 64
  /-- floating-point registers (R27) -/
  f : RegFile 128
  /-- scratchpad base registers (R28) -/
  sb : RegFile 64
  /-- pointer scratchpad base registers (R28) -/
  psb : RegFile 64
  /-- array scratchpad base registers (R28) -/
  asb : RegFile 64
  /-- program counter (R29) -/
  pc : Addr
  /-- status word (R31) -/
  sw : Status
  /-- saved copy of the condition codes (R32) -/
  ssw : Status
  /-- memory (R36) -/
  mem : Memory
  /-- the launch parameters, constant during a run (R37) -/
  params : Params
  /-- the model's own: how many draws of free values the run has made (R33 `havoc`; log entry 3) -/
  draws : Nat
  /-- the model's own: the run has ended at `END_PC` (70_reset_and_hazards.md R436; log entry 9) -/
  finished : Bool
  deriving DecidableEq, Repr

/-- Which operand value has no meaning (60_exceptions.md R402 row 3, 30_encoding.md R122). -/
inductive OperandFault where
  /-- an odd register number for a Long operand (10_state.md R23) -/
  | oddLongRegister (r : RegNum)
  /-- a range whose first register is above its last (40_multiple_register.md R131) -/
  | descendingRange (r1 r2 : RegNum)
  /-- a POP of base registers whose range includes `b[0]` (R146) -/
  | popsStackPointer (r2 : RegNum)
  /-- an ESL or ESR count above 32 (42_extensible_shift.md R222) -/
  | countAboveField (n : BitVec 6)
  /-- an ESL or ESR destination pair that would need a register after `x[7]` (R222) -/
  | pairPastLast
  /-- a normalize whose destination is a source register (45_single_operand.md R313) -/
  | normalizeOverlap (rD rS : RegNum)
  /-- a normalize of a zero operand (R313) -/
  | normalizeZero (rS : RegNum)
  deriving DecidableEq, Repr

/-- Why a running instruction stops the machine: the refusals of 60_exceptions.md R402 that depend on the
state or on operand values, and the end of a run. None is a trap of the hardware (R401), so every one but
`finished` is SAFE: the hardware may go on where the model stops. -/
inductive Fault where
  /-- a listed instruction whose operand values have no meaning (R402 code 3), with the instruction and the
  offending field; raised by the meanings; safe -/
  | reservedOperand (i : Instr) (why : OperandFault)
  /-- a control transfer to an odd address (R402 code 5); raised by the transfers; safe -/
  | misalignedTarget (target : Addr)
  /-- an access, a `pc` value or a stack-pointer update past either end of the address space (R402 code 6);
  raised by fetch and by the meanings; safe -/
  | addressWrap (addr : Int)
  /-- a store that touches the program text (R402 code 7); raised by the stores; safe -/
  | storeToText (addr : Nat)
  /-- a read of a byte that nothing has supplied (R402 code 9); raised by fetch and by the loads; safe -/
  | unmappedAccess (addr : Nat)
  /-- the run has already ended at `END_PC` (70_reset_and_hazards.md R436); raised by the step; safe: there is
  no step to take -/
  | finished
  deriving DecidableEq, Repr

/-- Why a step gives no meaning to what it finds at the program counter. -/
inductive Refusal where
  /-- an instruction that has no meaning in this model; raised by no arm; safe -/
  | notModelled (mnemonic : String)
  /-- no instruction of the page (R402 code 1): the first halfword, and the second if it was fetched; raised by
  the step; safe -/
  | unlistedEncoding (h : BitVec 16) (s : Option (BitVec 16))
  /-- a listed instruction with a reserved field value (R402 code 2); raised by the step; safe -/
  | reservedEncoding (h : BitVec 16) (s : Option (BitVec 16))
  /-- a launch in Compact Mode (R402 code 8); raised by the step; safe -/
  | unsupportedMode (mode : Mode)
  deriving DecidableEq, Repr

/-- The launch parameters after reset: the defaults of 70_reset_and_hazards.md R433 and, where it gives none,
no `END_PC` and an empty `TEXT` (log entry 2). -/
def resetParams : Params :=
  { addrWidth := .bits32
    mode := .normal
    flagsUnstated := .havoc
    narrowUpper := .havoc
    esLayout := defaultEsLayout
    endPc := none
    text := [] }

/-- The machine right after reset. The source gives no reset value (70_reset_and_hazards.md R430): every
register and status field holds zero (log entry 1), `pc` is zero (log entry 2), and memory lists nothing. -/
def State.reset : State :=
  { x := Vector.replicate 8 0
    b := Vector.replicate 8 0
    f := Vector.replicate 8 0
    sb := Vector.replicate 8 0
    psb := Vector.replicate 8 0
    asb := Vector.replicate 8 0
    pc := 0
    sw := { c := false, v := false, r := .zero }
    ssw := { c := false, v := false, r := .zero }
    mem := []
    params := resetParams
    draws := 0
    finished := false }

end Sys2Proof.Machine
end

