-- ==== Sys2Proof/Machine/Ops.lean ====
section
/-! DEFINITION. The named operations over registers, memory, the program counter and the stack pointer. An
operation that can stop answers in `Except Fault`; the page has no exception entry and no return from one
(60_exceptions.md R400, R412, R413), so there is none here. -/

namespace Sys2Proof.Machine

/-! ### Registers -/

/-- The contents of register `r`. -/
def RegFile.read {w : Nat} (file : RegFile w) (r : RegNum) : BitVec w := file[r.toNat]'r.isLt

/-- The file with register `r` holding `v`. -/
def RegFile.write {w : Nat} (file : RegFile w) (r : RegNum) (v : BitVec w) : RegFile w :=
  file.set r.toNat v r.isLt

namespace State

def setX (s : State) (r : RegNum) (v : Word) : State := { s with x := s.x.write r v }
def setB (s : State) (r : RegNum) (v : Addr) : State := { s with b := s.b.write r v }
def setF (s : State) (r : RegNum) (v : Quad) : State := { s with f := s.f.write r v }
def setSb (s : State) (r : RegNum) (v : Addr) : State := { s with sb := s.sb.write r v }
def setPsb (s : State) (r : RegNum) (v : Addr) : State := { s with psb := s.psb.write r v }
def setAsb (s : State) (r : RegNum) (v : Addr) : State := { s with asb := s.asb.write r v }
def setPc (s : State) (v : Addr) : State := { s with pc := v }
def setSw (s : State) (v : Status) : State := { s with sw := v }
def setMem (s : State) (m : Memory) : State := { s with mem := m }

/-- One draw of the free values is used up (log entry 3). -/
def nextDraw (s : State) : State := { s with draws := s.draws + 1 }

end State

/-- The register files that loads and stores move. -/
inductive FileName where
  | x
  | b
  | f
  | sb
  | psb
  | asb
  deriving DecidableEq, Repr

/-! ### Addresses -/

/-- `ADDR_BYTES` (00_scope.md R6). -/
def State.addrBytes (s : State) : Nat :=
  match s.params.addrWidth with
  | .bits32 => 4
  | .bits64 => 8

/-- `2^ADDR_BITS`, the size of the address space (20_memory.md R50). -/
def State.addrLimit (s : State) : Nat :=
  match s.params.addrWidth with
  | .bits32 => 2 ^ 32
  | .bits64 => 2 ^ 64

/-- `trunc_ADDR_BITS` (00_scope.md R15). -/
def State.truncAddr (s : State) (a : Addr) : Addr :=
  match s.params.addrWidth with
  | .bits32 => (a.setWidth 32).setWidth 64
  | .bits64 => a

/-- The address an exact sum of addresses stands for: address arithmetic is modulo `2^ADDR_BITS` (00_scope.md R15,
92_eei_decisions.md D28). -/
def State.wrapAddr (s : State) (a : Nat) : Nat := a % s.addrLimit

/-! ### Memory -/

/-- The byte at an address, if the launch or a store has supplied one (60_exceptions.md R404). -/
def Memory.read : Memory → Nat → Option Byte
  | [], _ => none
  | (k, v) :: rest, a => if k = a then some v else Memory.read rest a

/-- Memory with `v` at address `a`, keeping addresses rising. -/
def Memory.write : Memory → Nat → Byte → Memory
  | [], a, v => [(a, v)]
  | (k, w) :: rest, a, v =>
    if a < k then (a, v) :: (k, w) :: rest
    else if a = k then (a, v) :: rest
    else (k, w) :: Memory.write rest a v

/-- Every listed address is above `lo`, and they rise strictly. -/
def Memory.wfFrom : Option Nat → Memory → Bool
  | _, [] => true
  | lo, (k, _) :: rest => (match lo with | none => true | some l => l < k) && Memory.wfFrom (some k) rest

/-- The canonical form: addresses strictly rising. No entry can equal what an unlisted address reads as, since
that is no value. -/
def Memory.wf (m : Memory) : Bool := Memory.wfFrom none m

/-- `n` bytes from address `a` on; an address that holds none is `UnmappedAccess` (60_exceptions.md R404). -/
def Memory.readBytes (m : Memory) : Nat → Nat → Except Fault (List Byte)
  | _, 0 => .ok []
  | a, n + 1 =>
    match m.read a with
    | none => .error (.unmappedAccess a)
    | some v =>
      match m.readBytes (a + 1) n with
      | .error e => .error e
      | .ok vs => .ok (v :: vs)

/-- Memory with bytes stored from address `a` on. -/
def Memory.writeBytes (m : Memory) : Nat → List Byte → Memory
  | _, [] => m
  | a, v :: vs => (m.write a v).writeBytes (a + 1) vs

/-- The number a list of bytes holds, the first byte the most significant (20_memory.md R51, big-endian). -/
def bigEndian (bytes : List Byte) : Nat := bytes.foldl (fun acc v => acc * 256 + v.toNat) 0

/-- The `n` bytes of a number, the most significant first (20_memory.md R52). -/
def toBigEndian : Nat → Nat → List Byte
  | 0, _ => []
  | n + 1, v => BitVec.ofNat 8 (v / 256 ^ n) :: toBigEndian n v

/-- `MemRead(addr, n)` (20_memory.md R51), with the end of the address space as in R54. -/
def memRead (s : State) (a n : Nat) : Except Fault Nat :=
  if a + n ≤ s.addrLimit then
    match s.mem.readBytes a n with
    | .error e => .error e
    | .ok bytes => .ok (bigEndian bytes)
  else .error (.addressWrap a)

/-- The byte address lies in `TEXT` (20_memory.md R66). -/
def inText (p : Params) (a : Nat) : Bool :=
  p.text.any fun t => decide (t.base ≤ a) && decide (a < t.base + t.size)

/-- The first of `n` byte addresses from `a` on that lies in `TEXT`, if any. -/
def firstInText (p : Params) : Nat → Nat → Option Nat
  | _, 0 => none
  | a, n + 1 => if inText p a then some a else firstInText p (a + 1) n

/-- `MemWrite(addr, n, v)` (20_memory.md R52), with the end of the address space as in R54 and a store into
the program text as in R66, in the order of 60_exceptions.md R405. -/
def memWrite (s : State) (a n v : Nat) : Except Fault State :=
  if a + n ≤ s.addrLimit then
    match firstInText s.params a n with
    | some k => .error (.storeToText k)
    | none => .ok (s.setMem (s.mem.writeBytes a (toBigEndian n v)))
  else .error (.addressWrap a)

/-! ### Registers as memory sees them -/

/-- How many bytes of memory a register of a file takes (40_multiple_register.md R130, R148). -/
def State.elementBytes (s : State) : FileName → Nat
  | .x => 4
  | .b => s.addrBytes
  | .f => 16
  | .sb => s.addrBytes
  | .psb => s.addrBytes
  | .asb => s.addrBytes

/-- The contents of a register, as the number a store moves. -/
def State.readFile (s : State) (file : FileName) (r : RegNum) : Nat :=
  match file with
  | .x => (s.x.read r).toNat
  | .b => (s.b.read r).toNat
  | .f => (s.f.read r).toNat
  | .sb => (s.sb.read r).toNat
  | .psb => (s.psb.read r).toNat
  | .asb => (s.asb.read r).toNat

/-- The state with a register holding the number a load moved. -/
def State.writeFile (s : State) (file : FileName) (r : RegNum) (v : Nat) : State :=
  match file with
  | .x => s.setX r (BitVec.ofNat 32 v)
  | .b => s.setB r (BitVec.ofNat 64 v)
  | .f => s.setF r (BitVec.ofNat 128 v)
  | .sb => s.setSb r (BitVec.ofNat 64 v)
  | .psb => s.setPsb r (BitVec.ofNat 64 v)
  | .asb => s.setAsb r (BitVec.ofNat 64 v)

/-- Load `count` registers from `r` on, register `r + i` from address `a + i * E` (40_multiple_register.md R133), a
sum modulo `2^ADDR_BITS` (00_scope.md R15); an element across the end stops as in 20_memory.md R54. -/
def loadRange (file : FileName) : Nat → RegNum → Nat → State → Except Fault State
  | 0, _, _, s => .ok s
  | count + 1, r, a, s => do
    let v ← memRead s (s.wrapAddr a) (s.elementBytes file)
    loadRange file count (r + 1) (a + s.elementBytes file) (s.writeFile file r v)

/-- Store `count` registers from `r` on, register `r + i` at address `a + i * E` (40_multiple_register.md R133), the
sums as in `loadRange`. -/
def storeRange (file : FileName) : Nat → RegNum → Nat → State → Except Fault State
  | 0, _, _, s => .ok s
  | count + 1, r, a, s => do
    let s' ← memWrite s (s.wrapAddr a) (s.elementBytes file) (s.readFile file r)
    storeRange file count (r + 1) (a + s.elementBytes file) s'

/-! ### The program counter -/

/-- `next`, the address after an instruction of `len` bytes, where it is used: as the next `pc` or as a
return address (10_state.md R30; log entry 7). -/
def nextAddr (s : State) (len : Nat) : Except Fault Addr :=
  if s.pc.toNat + len < s.addrLimit then .ok (s.pc + BitVec.ofNat 64 len)
  else .error (.addressWrap (s.pc.toNat + len))

/-- Go on at the next instruction in sequence (10_state.md R30). -/
def advance (len : Nat) (s : State) : Except Fault State := do
  let a ← nextAddr s len
  .ok (s.setPc a)

/-- Go on at a target; an odd one is `MisalignedTarget` (20_memory.md R58). -/
def transferTo (target : Addr) (s : State) : Except Fault State :=
  if target.getLsbD 0 then .error (.misalignedTarget target) else .ok (s.setPc target)

/-- The target `disp` halfwords from `next`; one outside the address space is `AddressWrap`
(41_jumps.md R188, 44_branch_return.md R271). -/
def relativeTarget (s : State) (len : Nat) (disp : Int) : Except Fault Addr :=
  let t : Int := s.pc.toNat + len + 2 * disp
  if 0 ≤ t ∧ t < s.addrLimit then .ok (BitVec.ofNat 64 t.toNat) else .error (.addressWrap t)

/-! ### The stack pointer -/

/-- `b[0] <- b[0] + len` after a push; past the top is `AddressWrap` (40_multiple_register.md R134). -/
def growStack (len : Nat) (s : State) : Except Fault State :=
  if (s.b.read 0).toNat + len < s.addrLimit then .ok (s.setB 0 (s.b.read 0 + BitVec.ofNat 64 len))
  else .error (.addressWrap ((s.b.read 0).toNat + len))

/-- `b[0] <- b[0] - len` before a pop; below address 0 is `AddressWrap` (40_multiple_register.md R134). -/
def shrinkStack (len : Nat) (s : State) : Except Fault State :=
  if len ≤ (s.b.read 0).toNat then .ok (s.setB 0 (s.b.read 0 - BitVec.ofNat 64 len))
  else .error (.addressWrap ((s.b.read 0).toNat - len))

/-- Save a return address: in base register `rR`, or pushed where `rR` is zero (41_jumps.md R164, R202). -/
def saveReturn (rR : RegNum) (next : Addr) (s : State) : Except Fault State :=
  if rR = 0 then do
    let s' ← memWrite s (s.b.read 0).toNat s.addrBytes next.toNat
    growStack s.addrBytes s'
  else .ok (s.setB rR next)

/-- Pop `ADDR_BYTES` bytes and go on at the address they hold (44_branch_return.md R284). -/
def popReturn (s : State) : Except Fault State := do
  let s' ← shrinkStack s.addrBytes s
  let t ← memRead s' (s'.b.read 0).toNat s.addrBytes
  transferTo (BitVec.ofNat 64 t) s'

/-! ### Outcomes -/

/-- The outcome of a meaning. A stop keeps nothing of the instruction (60_exceptions.md R401). -/
def outcomeOf : Except Fault State → Host.Outcome State Fault Refusal
  | .ok s => .next s
  | .error e => .fault e

end Sys2Proof.Machine
end

