-- ==== Sys2Proof/Machine/Flags.lean ====
section
/-! DEFINITION. The condition test (10_state.md R34) and the flag effects (R33, 42_extensible_shift.md R226,
43_shifts.md R235, 45_single_operand.md R302, R314, 46_math_functions.md R322). -/

namespace Sys2Proof.Machine

/-- `cond(c, W)` (10_state.md R34): the six comparisons and No Overflow need `V = 0`; Carry and No Carry test
the carry alone (92_eei_decisions.md D11). -/
def condHolds (c : Cond) (w : Status) : Bool :=
  match c with
  | .low => !w.v && w.r == .neg
  | .equal => !w.v && w.r == .zero
  | .lowOrEqual => !w.v && w.r != .pos
  | .high => !w.v && w.r == .pos
  | .notEqual => !w.v && w.r != .zero
  | .highOrEqual => !w.v && w.r != .neg
  | .noOverflow => !w.v
  | .overflow => w.v
  | .carry => w.c
  | .noCarry => !w.c
  | .always => true

/-- The sign of a value as stored, its first bit deciding (45_single_operand.md R302). -/
def signOf {w : Nat} (v : BitVec w) : Sign :=
  if v.msb then .neg else if v = 0 then .zero else .pos

/-- A status field after an instruction: the value the spec states, else under `FLAGS_UNSTATED` what it was or
a free value (10_state.md R33). -/
def fieldAfter {α : Type} (policy : FlagsPolicy) (stated : Option α) (old free : α) : α :=
  match stated with
  | some v => v
  | none =>
    match policy with
    | .preserve => old
    | .havoc => free

/-- The flag effect of a data-processing instruction that states the given fields, and no others; it uses up
one draw (10_state.md R33, log entry 3). -/
def setFlags (c v : Option Bool) (r : Option Sign) (s : State) : State :=
  (s.setSw
    { c := fieldAfter s.params.flagsUnstated c s.sw.c (Config.freeCarry s.draws)
      v := fieldAfter s.params.flagsUnstated v s.sw.v (Config.freeOverflow s.draws)
      r := fieldAfter s.params.flagsUnstated r s.sw.r (Config.freeSign s.draws) }).nextDraw

end Sys2Proof.Machine
end

