-- ==== Sys2Proof/Machine/Operands.lean ====
section
/-! DEFINITION. The operand forms: effective addresses and jump targets, narrow operands, register pairs,
register ranges. -/

namespace Sys2Proof.Machine

/-! ### Effective addresses (20_memory.md R60) -/

/-- `EA0`: base plus the zero-extended address field, modulo `2^ADDR_BITS`. -/
def ea0 (rB : RegNum) (addr : Half) (s : State) : Addr :=
  s.truncAddr (s.b.read rB + addr.setWidth 64)

/-- `EA1`: `EA0` plus the sign-extended index, modulo `2^ADDR_BITS`. -/
def ea1 (rX rB : RegNum) (addr : Half) (s : State) : Addr :=
  s.truncAddr (ea0 rB addr s + (s.x.read rX).signExtend 64)

/-- `JumpTarget` (41_jumps.md R161): `EA0` where `rX` is zero (R162), else the address stored at `EA1`. -/
def jumpTarget (rX rB : RegNum) (addr : Half) (s : State) : Except Fault Addr :=
  if rX = 0 then .ok (ea0 rB addr s)
  else do
    let t ← memRead s (ea1 rX rB addr s).toNat s.addrBytes
    .ok (BitVec.ofNat 64 t)

/-! ### Narrow operands (10_state.md R24) -/

/-- The least significant `w` bits of `x[r]`. -/
def readNarrow (w : Nat) (r : RegNum) (s : State) : BitVec w := (s.x.read r).setWidth w

/-- What stands in the register above a narrow operand afterwards, under `NARROW_UPPER` (43_shifts.md R233). -/
def upperSource (r : RegNum) (s : State) : Word :=
  match s.params.narrowUpper with
  | .unchanged => s.x.read r
  | .havoc => Config.freeUpper s.draws

/-- `x[r]` with its least significant `w` bits replaced by `v` and the others as `upperSource` gives them. -/
def writeNarrow {w : Nat} (r : RegNum) (v : BitVec w) (s : State) : State :=
  s.setX r (((upperSource r s >>> w) <<< w) ||| v.setWidth 32)

/-! ### Register pairs (10_state.md R23) -/

/-- `x[r] ++ x[r+1]`, `x[r]` the more significant word. -/
def readPair (r : RegNum) (s : State) : Long := s.x.read r ++ s.x.read (r + 1)

/-- Both words of a pair replaced. -/
def writePair (r : RegNum) (v : Long) (s : State) : State :=
  (s.setX r (v.extractLsb' 32 32)).setX (r + 1) (v.extractLsb' 0 32)

/-- The Long operand of `i` starts at an even register (10_state.md R23). -/
def checkEven (i : Instr) (r : RegNum) : Except Fault Unit :=
  if r.getLsbD 0 then .error (.reservedOperand i (.oddLongRegister r)) else .ok ()

/-! ### Register ranges (40_multiple_register.md R131) -/

/-- The range of `i` ascends. -/
def checkRange (i : Instr) (r1 r2 : RegNum) : Except Fault Unit :=
  if r2 < r1 then .error (.reservedOperand i (.descendingRange r1 r2)) else .ok ()

/-- How many registers a range has. -/
def rangeCount (r1 r2 : RegNum) : Nat := r2.toNat - r1.toNat + 1

end Sys2Proof.Machine
end

