-- ==== Sys2Proof/Machine/BranchReturn.lean ====
section
/-! DEFINITION. Branches and returns (44_branch_return.md). None changes a status word (R272). -/

namespace Sys2Proof.Machine

/-- A branch under condition `c`, in halfwords from `pc + 2` (R271). -/
def branch (c : Cond) (disp : BitVec 6) (s : State) : Except Fault State :=
  if condHolds c s.sw then do
    let t ← relativeTarget s 2 disp.toInt
    transferTo t s
  else advance 2 s

/-- A return under condition `c`: one not taken changes nothing but `pc` (R284). -/
def returnIf (c : Cond) (s : State) : Except Fault State :=
  if condHolds c s.sw then popReturn s else advance 2 s

/-- BL: Branch if Low (R273). -/
def execBl (disp : BitVec 6) (s : State) : Host.Outcome State Fault Refusal :=
  outcomeOf (branch .low disp s)

/-- BE: Branch if Equal (R274). -/
def execBe (disp : BitVec 6) (s : State) : Host.Outcome State Fault Refusal :=
  outcomeOf (branch .equal disp s)

/-- BLE: Branch if Low or Equal (R275). -/
def execBle (disp : BitVec 6) (s : State) : Host.Outcome State Fault Refusal :=
  outcomeOf (branch .lowOrEqual disp s)

/-- BH: Branch if High (R276). -/
def execBh (disp : BitVec 6) (s : State) : Host.Outcome State Fault Refusal :=
  outcomeOf (branch .high disp s)

/-- BNE: Branch if Not Equal (R277). -/
def execBne (disp : BitVec 6) (s : State) : Host.Outcome State Fault Refusal :=
  outcomeOf (branch .notEqual disp s)

/-- BHE: Branch if High or Equal (R278). -/
def execBhe (disp : BitVec 6) (s : State) : Host.Outcome State Fault Refusal :=
  outcomeOf (branch .highOrEqual disp s)

/-- BNV: Branch if No Overflow (R279). -/
def execBnv (disp : BitVec 6) (s : State) : Host.Outcome State Fault Refusal :=
  outcomeOf (branch .noOverflow disp s)

/-- BV: Branch if Overflow (R280). -/
def execBv (disp : BitVec 6) (s : State) : Host.Outcome State Fault Refusal :=
  outcomeOf (branch .overflow disp s)

/-- BC: Branch if Carry (R281). -/
def execBc (disp : BitVec 6) (s : State) : Host.Outcome State Fault Refusal :=
  outcomeOf (branch .carry disp s)

/-- BNC: Branch if No Carry (R282). -/
def execBnc (disp : BitVec 6) (s : State) : Host.Outcome State Fault Refusal :=
  outcomeOf (branch .noCarry disp s)

/-- BRA: Branch (R283). -/
def execBra (disp : BitVec 6) (s : State) : Host.Outcome State Fault Refusal :=
  outcomeOf (branch .always disp s)

/-- RL: Return if Low (R285). -/
def execRl (s : State) : Host.Outcome State Fault Refusal :=
  outcomeOf (returnIf .low s)

/-- RE: Return if Equal (R286). -/
def execRe (s : State) : Host.Outcome State Fault Refusal :=
  outcomeOf (returnIf .equal s)

/-- RLE: Return if Low or Equal (R287). -/
def execRle (s : State) : Host.Outcome State Fault Refusal :=
  outcomeOf (returnIf .lowOrEqual s)

/-- RH: Return if High (R288). -/
def execRh (s : State) : Host.Outcome State Fault Refusal :=
  outcomeOf (returnIf .high s)

/-- RNE: Return if Not Equal (R289). -/
def execRne (s : State) : Host.Outcome State Fault Refusal :=
  outcomeOf (returnIf .notEqual s)

/-- RHE: Return if High or Equal (R290). -/
def execRhe (s : State) : Host.Outcome State Fault Refusal :=
  outcomeOf (returnIf .highOrEqual s)

/-- RNV: Return if No Overflow (R291). -/
def execRnv (s : State) : Host.Outcome State Fault Refusal :=
  outcomeOf (returnIf .noOverflow s)

/-- RV: Return if Overflow (R292). -/
def execRv (s : State) : Host.Outcome State Fault Refusal :=
  outcomeOf (returnIf .overflow s)

/-- RC: Return if Carry (R293). -/
def execRc (s : State) : Host.Outcome State Fault Refusal :=
  outcomeOf (returnIf .carry s)

/-- RNC: Return if No Carry (R294). -/
def execRnc (s : State) : Host.Outcome State Fault Refusal :=
  outcomeOf (returnIf .noCarry s)

/-- RSS: Return from Stack Subroutine (R295). -/
def execRss (s : State) : Host.Outcome State Fault Refusal :=
  outcomeOf (returnIf .always s)

end Sys2Proof.Machine
end

