-- ==== Sys2Proof/Machine/ExtensibleShift.lean ====
section
/-! DEFINITION. Extensible shifts (42_extensible_shift.md). -/

namespace Sys2Proof.Machine

/-- The prepared source `T` (R223): the source at the right of the field and shifted left, or at the left and
shifted right. -/
def preparedSource (left : Bool) (n : Nat) (src : Word) : Long :=
  if left then src.setWidth 64 <<< n else (src.setWidth 64 <<< 32) >>> n

/-- The mask `M` of the bits that correspond to bits of the source (R223). -/
def sourceMask (left : Bool) (n : Nat) : Long := preparedSource left n (BitVec.allOnes 32)

/-- All ones or all zeros. -/
def spread (on : Bool) : Long := if on then BitVec.allOnes 64 else 0

/-- What the connective makes of each pair of a source and a destination bit (R224): its four bits, the first
written first, are the results for (0,0), (0,1), (1,0) and (1,1). -/
def connect (conn : BitVec 4) (t d : Long) : Long :=
  (spread (conn.getLsbD 3) &&& ~~~t &&& ~~~d) ||| (spread (conn.getLsbD 2) &&& ~~~t &&& d) |||
    (spread (conn.getLsbD 1) &&& t &&& ~~~d) ||| (spread (conn.getLsbD 0) &&& t &&& d)

/-- The destination after the operation: the marked bits are replaced, the others unchanged (R224). -/
def combined (left : Bool) (conn : BitVec 4) (n : Nat) (src : Word) (d : Long) : Long :=
  (sourceMask left n &&& connect conn (preparedSource left n src) d) ||| (~~~(sourceMask left n) &&& d)

/-- Valid operands of `i` (R222): a count of at most 32 and a destination pair that ends at `x[7]`. Where neither
holds, the register is reported: R405 does not order the two. DESIGN CHOICE, log entry 24. -/
def checkExtensible (i : Instr) (rD : RegNum) (n : BitVec 6) : Except Fault Unit :=
  if rD = 7 then .error (.reservedOperand i .pairPastLast)
  else if 32 < n.toNat then .error (.reservedOperand i (.countAboveField n))
  else .ok ()

/-- ESL or ESR: all operands are read before the pair is written (R222); no flag is stated (R226). -/
def extensibleShift (i : Instr) (left : Bool) (rD rS : RegNum) (conn : BitVec 4) (n : BitVec 6) (s : State) :
    Except Fault State := do
  checkExtensible i rD n
  let d := combined left conn n.toNat (s.x.read rS) (readPair rD s)
  advance 4 (setFlags none none none (writePair rD d s))

/-- ESL: Extensible Shift Left (R227). -/
def execEsl (rD rS : RegNum) (conn : BitVec 4) (n : BitVec 6) (s : State) : Host.Outcome State Fault Refusal :=
  outcomeOf (extensibleShift (.esl rD rS conn n) true rD rS conn n s)

/-- ESR: Extensible Shift Right (R228). -/
def execEsr (rD rS : RegNum) (conn : BitVec 4) (n : BitVec 6) (s : State) : Host.Outcome State Fault Refusal :=
  outcomeOf (extensibleShift (.esr rD rS conn n) false rD rS conn n s)

end Sys2Proof.Machine
end

