-- ==== Sys2Proof/Machine/Jumps.lean ====
section
/-! DEFINITION. Jumps, jump to subroutine, count-and-compare jumps and long branches (41_jumps.md). None changes
a status word (R163). A target is computed only when the jump is taken (R163). -/

namespace Sys2Proof.Machine

/-- A jump under condition `c`, tested on the status copy `w` (R161, R163). -/
def condJump (c : Cond) (w : Status) (rX rB : RegNum) (addr : Half) (s : State) : Except Fault State :=
  if condHolds c w then do
    let t ← jumpTarget rX rB addr s
    transferTo t s
  else advance 4 s

/-- A long branch under condition `c` (R188). -/
def longBranch (c : Cond) (disp : Half) (s : State) : Except Fault State :=
  if condHolds c s.sw then do
    let t ← relativeTarget s 4 disp.toInt
    transferTo t s
  else advance 4 s

/-- The count register decremented or incremented by one, wrapping silently (R186, R187). -/
def stepCount (down : Bool) (cR : RegNum) (s : State) : State :=
  s.setX cR (if down then s.x.read cR - 1 else s.x.read cR + 1)

/-- The compare of a count-and-compare jump, signed on 32 bits: high when counting down (R186), low or equal
when counting up (R187). -/
def countMet (down : Bool) (cR lR : RegNum) (s : State) : Bool :=
  if down then (s.x.read lR).slt (s.x.read cR) else (s.x.read cR).sle (s.x.read lR)

/-- A count-and-compare jump: the compare uses the updated count (R186). -/
def countJump (down : Bool) (cR lR rB : RegNum) (addr : Half) (s : State) : Except Fault State :=
  let s' := stepCount down cR s
  if countMet down cR lR s' then transferTo (ea0 rB addr s') s' else advance 4 s'

/-- A count-and-compare long branch (R200, R201). -/
def countBranch (down : Bool) (cR lR : RegNum) (disp : Half) (s : State) : Except Fault State :=
  let s' := stepCount down cR s
  if countMet down cR lR s' then do
    let t ← relativeTarget s' 4 disp.toInt
    transferTo t s'
  else advance 4 s'

/-- JMS (R164): the target is computed from the old registers, before the return address is saved. -/
def jumpSubroutine (rR rX rB : RegNum) (addr : Half) (s : State) : Except Fault State := do
  let t ← jumpTarget rX rB addr s
  let next ← nextAddr s 4
  let s' ← saveReturn rR next s
  transferTo t s'

/-- LBRS (R202). -/
def branchSubroutine (rR : RegNum) (disp : Half) (s : State) : Except Fault State := do
  let next ← nextAddr s 4
  let s' ← saveReturn rR next s
  let t ← relativeTarget s 4 disp.toInt
  transferTo t s'

/-- JMS: Jump to Subroutine (R164). -/
def execJms (rR rX rB : RegNum) (addr : Half) (s : State) : Host.Outcome State Fault Refusal :=
  outcomeOf (jumpSubroutine rR rX rB addr s)

/-- LBL: Long Branch if Low (R189). -/
def execLbl (disp : Half) (s : State) : Host.Outcome State Fault Refusal :=
  outcomeOf (longBranch .low disp s)

/-- LBE: Long Branch if Equal (R190). -/
def execLbe (disp : Half) (s : State) : Host.Outcome State Fault Refusal :=
  outcomeOf (longBranch .equal disp s)

/-- LBLE: Long Branch if Low or Equal (R191). -/
def execLble (disp : Half) (s : State) : Host.Outcome State Fault Refusal :=
  outcomeOf (longBranch .lowOrEqual disp s)

/-- LBH: Long Branch if High (R192). -/
def execLbh (disp : Half) (s : State) : Host.Outcome State Fault Refusal :=
  outcomeOf (longBranch .high disp s)

/-- LBNE: Long Branch if Not Equal (R193). -/
def execLbne (disp : Half) (s : State) : Host.Outcome State Fault Refusal :=
  outcomeOf (longBranch .notEqual disp s)

/-- LBHE: Long Branch if High or Equal (R194). -/
def execLbhe (disp : Half) (s : State) : Host.Outcome State Fault Refusal :=
  outcomeOf (longBranch .highOrEqual disp s)

/-- LBNV: Long Branch if No Overflow (R195). -/
def execLbnv (disp : Half) (s : State) : Host.Outcome State Fault Refusal :=
  outcomeOf (longBranch .noOverflow disp s)

/-- LBV: Long Branch if Overflow (R196). -/
def execLbv (disp : Half) (s : State) : Host.Outcome State Fault Refusal :=
  outcomeOf (longBranch .overflow disp s)

/-- LBC: Long Branch if Carry (R197). -/
def execLbc (disp : Half) (s : State) : Host.Outcome State Fault Refusal :=
  outcomeOf (longBranch .carry disp s)

/-- LBNC: Long Branch if No Carry (R198). -/
def execLbnc (disp : Half) (s : State) : Host.Outcome State Fault Refusal :=
  outcomeOf (longBranch .noCarry disp s)

/-- LBRA: Long Branch (R199). -/
def execLbra (disp : Half) (s : State) : Host.Outcome State Fault Refusal :=
  outcomeOf (longBranch .always disp s)

/-- LBXH: Long Branch if Index High (R200). -/
def execLbxh (cR lR : RegNum) (disp : Half) (s : State) : Host.Outcome State Fault Refusal :=
  outcomeOf (countBranch true cR lR disp s)

/-- LBXLE: Long Branch if Index Low or Equal (R201). -/
def execLbxle (cR lR : RegNum) (disp : Half) (s : State) : Host.Outcome State Fault Refusal :=
  outcomeOf (countBranch false cR lR disp s)

/-- LBRS: Long Branch to Subroutine (R202). -/
def execLbrs (rR : RegNum) (disp : Half) (s : State) : Host.Outcome State Fault Refusal :=
  outcomeOf (branchSubroutine rR disp s)

/-- JL: Jump if Low (R165). -/
def execJl (rX rB : RegNum) (addr : Half) (s : State) : Host.Outcome State Fault Refusal :=
  outcomeOf (condJump .low s.sw rX rB addr s)

/-- JE: Jump if Equal (R166). -/
def execJe (rX rB : RegNum) (addr : Half) (s : State) : Host.Outcome State Fault Refusal :=
  outcomeOf (condJump .equal s.sw rX rB addr s)

/-- JLE: Jump if Low or Equal (R167). -/
def execJle (rX rB : RegNum) (addr : Half) (s : State) : Host.Outcome State Fault Refusal :=
  outcomeOf (condJump .lowOrEqual s.sw rX rB addr s)

/-- JH: Jump if High (R168). -/
def execJh (rX rB : RegNum) (addr : Half) (s : State) : Host.Outcome State Fault Refusal :=
  outcomeOf (condJump .high s.sw rX rB addr s)

/-- JNE: Jump if Not Equal (R169). -/
def execJne (rX rB : RegNum) (addr : Half) (s : State) : Host.Outcome State Fault Refusal :=
  outcomeOf (condJump .notEqual s.sw rX rB addr s)

/-- JHE: Jump if High or Equal (R170). -/
def execJhe (rX rB : RegNum) (addr : Half) (s : State) : Host.Outcome State Fault Refusal :=
  outcomeOf (condJump .highOrEqual s.sw rX rB addr s)

/-- JNV: Jump if No Overflow (R171). -/
def execJnv (rX rB : RegNum) (addr : Half) (s : State) : Host.Outcome State Fault Refusal :=
  outcomeOf (condJump .noOverflow s.sw rX rB addr s)

/-- JV: Jump if Overflow (R172). -/
def execJv (rX rB : RegNum) (addr : Half) (s : State) : Host.Outcome State Fault Refusal :=
  outcomeOf (condJump .overflow s.sw rX rB addr s)

/-- JC: Jump if Carry (R173). -/
def execJc (rX rB : RegNum) (addr : Half) (s : State) : Host.Outcome State Fault Refusal :=
  outcomeOf (condJump .carry s.sw rX rB addr s)

/-- JNC: Jump if No Carry (R174). -/
def execJnc (rX rB : RegNum) (addr : Half) (s : State) : Host.Outcome State Fault Refusal :=
  outcomeOf (condJump .noCarry s.sw rX rB addr s)

/-- JMP: Jump (R175). -/
def execJmp (rX rB : RegNum) (addr : Half) (s : State) : Host.Outcome State Fault Refusal :=
  outcomeOf (condJump .always s.sw rX rB addr s)

/-- JVL: Jump if Saved Low (R176). -/
def execJvl (rX rB : RegNum) (addr : Half) (s : State) : Host.Outcome State Fault Refusal :=
  outcomeOf (condJump .low s.ssw rX rB addr s)

/-- JVE: Jump if Saved Equal (R177). -/
def execJve (rX rB : RegNum) (addr : Half) (s : State) : Host.Outcome State Fault Refusal :=
  outcomeOf (condJump .equal s.ssw rX rB addr s)

/-- JVLE: Jump if Saved Low or Equal (R178). -/
def execJvle (rX rB : RegNum) (addr : Half) (s : State) : Host.Outcome State Fault Refusal :=
  outcomeOf (condJump .lowOrEqual s.ssw rX rB addr s)

/-- JVH: Jump if Saved High (R179). -/
def execJvh (rX rB : RegNum) (addr : Half) (s : State) : Host.Outcome State Fault Refusal :=
  outcomeOf (condJump .high s.ssw rX rB addr s)

/-- JVNE: Jump if Saved Not Equal (R180). -/
def execJvne (rX rB : RegNum) (addr : Half) (s : State) : Host.Outcome State Fault Refusal :=
  outcomeOf (condJump .notEqual s.ssw rX rB addr s)

/-- JVHE: Jump if Saved High or Equal (R181). -/
def execJvhe (rX rB : RegNum) (addr : Half) (s : State) : Host.Outcome State Fault Refusal :=
  outcomeOf (condJump .highOrEqual s.ssw rX rB addr s)

/-- JVNV: Jump if Saved No Overflow (R182). -/
def execJvnv (rX rB : RegNum) (addr : Half) (s : State) : Host.Outcome State Fault Refusal :=
  outcomeOf (condJump .noOverflow s.ssw rX rB addr s)

/-- JVV: Jump if Saved Overflow (R183). -/
def execJvv (rX rB : RegNum) (addr : Half) (s : State) : Host.Outcome State Fault Refusal :=
  outcomeOf (condJump .overflow s.ssw rX rB addr s)

/-- JVC: Jump if Saved Carry (R184). -/
def execJvc (rX rB : RegNum) (addr : Half) (s : State) : Host.Outcome State Fault Refusal :=
  outcomeOf (condJump .carry s.ssw rX rB addr s)

/-- JVNC: Jump if Saved No Carry (R185). -/
def execJvnc (rX rB : RegNum) (addr : Half) (s : State) : Host.Outcome State Fault Refusal :=
  outcomeOf (condJump .noCarry s.ssw rX rB addr s)

/-- JXH: Jump if Index High (R186). -/
def execJxh (cR lR rB : RegNum) (addr : Half) (s : State) : Host.Outcome State Fault Refusal :=
  outcomeOf (countJump true cR lR rB addr s)

/-- JXLE: Jump if Index Low or Equal (R187). -/
def execJxle (cR lR rB : RegNum) (addr : Half) (s : State) : Host.Outcome State Fault Refusal :=
  outcomeOf (countJump false cR lR rB addr s)

end Sys2Proof.Machine
end

