-- ==== Sys2Proof/Machine/MathFunctions.lean ====
section
/-! DEFINITION. Mathematical functions and the Q single-operand instructions (46_math_functions.md). No
floating-point format is in the source, so a function is an uninterpreted function of the whole 128-bit
register image (R321). What R388 to R391 demand of a supplied `FpFunc`, `FSign` and constants holds here by
construction: the free images are adjusted only where they would break a demand, so every choice of them that
meets the demands is left as it is (log entry 4). -/

namespace Sys2Proof.Machine

/-- `QZERO` (R388). -/
def qZero : Quad := Config.zeroImage

/-- `QONE` (R390), never the image of zero. -/
def qOne : Quad := if Config.oneImage = qZero then qZero + 1 else Config.oneImage

/-- `QMINUSONE` (R390), never the image of zero or of one. -/
def qMinusOne : Quad :=
  if Config.minusOneImage = qZero ∨ Config.minusOneImage = qOne then
    (if qZero + 1 = qOne then qZero + 2 else qZero + 1)
  else Config.minusOneImage

/-- `FSign` (R322); in type Q the three constants have their own signs (R388, R390). -/
def fSign (ty : FpType) (a : Quad) : Sign :=
  if ty = .q then
    if a = qZero then .zero
    else if a = qOne then .pos
    else if a = qMinusOne then .neg
    else Config.fpSign ty a
  else Config.fpSign ty a

/-- The sign of a negated value (R391). -/
def oppositeSign : Sign → Sign
  | .neg => .pos
  | .zero => .zero
  | .pos => .neg

/-- The type-Q image of 0, +1 or -1 (R390). -/
def qOfSign : Sign → Quad
  | .neg => qMinusOne
  | .zero => qZero
  | .pos => qOne

/-- An image of the opposite sign (R391): the free one, where its sign is right. -/
def qOpposite (a : Quad) : Quad :=
  if fSign .q (Config.fpImage .q .neg a) = oppositeSign (fSign .q a) then Config.fpImage .q .neg a
  else qOfSign (oppositeSign (fSign .q a))

/-- Negation in type Q (R391). `QZERO` is taken as an ordinary number, so it is its own negation where the free
images would not lead back to it (log entry 4). -/
def qNegate (a : Quad) : Quad :=
  if a = qZero ∧ qOpposite (qOpposite qZero) ≠ qZero then qZero else qOpposite a

/-- The images the format treats as ordinary numbers (R391): `QZERO`, and those of the free set for which negation
undoes itself. R391 demands that of every image of the set, so a choice of the free values that meets the demand
loses none. -/
def qOrdinary (a : Quad) : Bool := (a == qZero || Config.ordinaryImage a) && qNegate (qNegate a) == a

/-- `FpFunc` (R321), with CLRQ, ABSQ, SGNQ and NEGQ as R388 to R391 say. -/
def fpFunc (ty : FpType) (fn : FpFn) (a : Quad) : Quad :=
  match ty, fn with
  | .q, .clr => qZero
  | .q, .abs => if fSign .q a = .neg then qNegate a else a
  | .q, .sgn => qOfSign (fSign .q a)
  | .q, .neg => qNegate a
  | ty, fn => Config.fpImage ty fn a

/-- `f[r] <- FpFunc(ty, fn, f[r])`, the sign of the result in `SW.R`, no other flag stated (R321, R322). -/
def applyFunction (ty : FpType) (fn : FpFn) (r : RegNum) (s : State) : Except Fault State :=
  let y := fpFunc ty fn (s.f.read r)
  advance 2 (setFlags none none (some (fSign ty y)) (s.setF r y))

/-- SINM: SIN, type M (R324). -/
def execSinm (r : RegNum) (s : State) : Host.Outcome State Fault Refusal :=
  outcomeOf (applyFunction .m .sin r s)

/-- SIN: SIN, floating type (R325). -/
def execSin (r : RegNum) (s : State) : Host.Outcome State Fault Refusal :=
  outcomeOf (applyFunction .f .sin r s)

/-- SIND: SIN, type D (R326). -/
def execSind (r : RegNum) (s : State) : Host.Outcome State Fault Refusal :=
  outcomeOf (applyFunction .d .sin r s)

/-- SINQ: SIN, type Q (R327). -/
def execSinq (r : RegNum) (s : State) : Host.Outcome State Fault Refusal :=
  outcomeOf (applyFunction .q .sin r s)

/-- COSM: COS, type M (R328). -/
def execCosm (r : RegNum) (s : State) : Host.Outcome State Fault Refusal :=
  outcomeOf (applyFunction .m .cos r s)

/-- COS: COS, floating type (R329). -/
def execCos (r : RegNum) (s : State) : Host.Outcome State Fault Refusal :=
  outcomeOf (applyFunction .f .cos r s)

/-- COSD: COS, type D (R330). -/
def execCosd (r : RegNum) (s : State) : Host.Outcome State Fault Refusal :=
  outcomeOf (applyFunction .d .cos r s)

/-- COSQ: COS, type Q (R331). -/
def execCosq (r : RegNum) (s : State) : Host.Outcome State Fault Refusal :=
  outcomeOf (applyFunction .q .cos r s)

/-- TANM: TAN, type M (R332). -/
def execTanm (r : RegNum) (s : State) : Host.Outcome State Fault Refusal :=
  outcomeOf (applyFunction .m .tan r s)

/-- TAN: TAN, floating type (R333). -/
def execTan (r : RegNum) (s : State) : Host.Outcome State Fault Refusal :=
  outcomeOf (applyFunction .f .tan r s)

/-- TAND: TAN, type D (R334). -/
def execTand (r : RegNum) (s : State) : Host.Outcome State Fault Refusal :=
  outcomeOf (applyFunction .d .tan r s)

/-- TANQ: TAN, type Q (R335). -/
def execTanq (r : RegNum) (s : State) : Host.Outcome State Fault Refusal :=
  outcomeOf (applyFunction .q .tan r s)

/-- ASNM: ASN, type M (R336). -/
def execAsnm (r : RegNum) (s : State) : Host.Outcome State Fault Refusal :=
  outcomeOf (applyFunction .m .asn r s)

/-- ASN: ASN, floating type (R337). -/
def execAsn (r : RegNum) (s : State) : Host.Outcome State Fault Refusal :=
  outcomeOf (applyFunction .f .asn r s)

/-- ASND: ASN, type D (R338). -/
def execAsnd (r : RegNum) (s : State) : Host.Outcome State Fault Refusal :=
  outcomeOf (applyFunction .d .asn r s)

/-- ASNQ: ASN, type Q (R339). -/
def execAsnq (r : RegNum) (s : State) : Host.Outcome State Fault Refusal :=
  outcomeOf (applyFunction .q .asn r s)

/-- ACSM: ACS, type M (R340). -/
def execAcsm (r : RegNum) (s : State) : Host.Outcome State Fault Refusal :=
  outcomeOf (applyFunction .m .acs r s)

/-- ACS: ACS, floating type (R341). -/
def execAcs (r : RegNum) (s : State) : Host.Outcome State Fault Refusal :=
  outcomeOf (applyFunction .f .acs r s)

/-- ACSD: ACS, type D (R342). -/
def execAcsd (r : RegNum) (s : State) : Host.Outcome State Fault Refusal :=
  outcomeOf (applyFunction .d .acs r s)

/-- ACSQ: ACS, type Q (R343). -/
def execAcsq (r : RegNum) (s : State) : Host.Outcome State Fault Refusal :=
  outcomeOf (applyFunction .q .acs r s)

/-- ATNM: ATN, type M (R344). -/
def execAtnm (r : RegNum) (s : State) : Host.Outcome State Fault Refusal :=
  outcomeOf (applyFunction .m .atn r s)

/-- ATN: ATN, floating type (R345). -/
def execAtn (r : RegNum) (s : State) : Host.Outcome State Fault Refusal :=
  outcomeOf (applyFunction .f .atn r s)

/-- ATND: ATN, type D (R346). -/
def execAtnd (r : RegNum) (s : State) : Host.Outcome State Fault Refusal :=
  outcomeOf (applyFunction .d .atn r s)

/-- ATNQ: ATN, type Q (R347). -/
def execAtnq (r : RegNum) (s : State) : Host.Outcome State Fault Refusal :=
  outcomeOf (applyFunction .q .atn r s)

/-- SINHM: SINH, type M (R348). -/
def execSinhm (r : RegNum) (s : State) : Host.Outcome State Fault Refusal :=
  outcomeOf (applyFunction .m .sinh r s)

/-- SINH: SINH, floating type (R349). -/
def execSinh (r : RegNum) (s : State) : Host.Outcome State Fault Refusal :=
  outcomeOf (applyFunction .f .sinh r s)

/-- SINHD: SINH, type D (R350). -/
def execSinhd (r : RegNum) (s : State) : Host.Outcome State Fault Refusal :=
  outcomeOf (applyFunction .d .sinh r s)

/-- SINHQ: SINH, type Q (R351). -/
def execSinhq (r : RegNum) (s : State) : Host.Outcome State Fault Refusal :=
  outcomeOf (applyFunction .q .sinh r s)

/-- COSHM: COSH, type M (R352). -/
def execCoshm (r : RegNum) (s : State) : Host.Outcome State Fault Refusal :=
  outcomeOf (applyFunction .m .cosh r s)

/-- COSH: COSH, floating type (R353). -/
def execCosh (r : RegNum) (s : State) : Host.Outcome State Fault Refusal :=
  outcomeOf (applyFunction .f .cosh r s)

/-- COSHD: COSH, type D (R354). -/
def execCoshd (r : RegNum) (s : State) : Host.Outcome State Fault Refusal :=
  outcomeOf (applyFunction .d .cosh r s)

/-- COSHQ: COSH, type Q (R355). -/
def execCoshq (r : RegNum) (s : State) : Host.Outcome State Fault Refusal :=
  outcomeOf (applyFunction .q .cosh r s)

/-- TANHM: TANH, type M (R356). -/
def execTanhm (r : RegNum) (s : State) : Host.Outcome State Fault Refusal :=
  outcomeOf (applyFunction .m .tanh r s)

/-- TANH: TANH, floating type (R357). -/
def execTanh (r : RegNum) (s : State) : Host.Outcome State Fault Refusal :=
  outcomeOf (applyFunction .f .tanh r s)

/-- TANHD: TANH, type D (R358). -/
def execTanhd (r : RegNum) (s : State) : Host.Outcome State Fault Refusal :=
  outcomeOf (applyFunction .d .tanh r s)

/-- TANHQ: TANH, type Q (R359). -/
def execTanhq (r : RegNum) (s : State) : Host.Outcome State Fault Refusal :=
  outcomeOf (applyFunction .q .tanh r s)

/-- ASNHM: ASNH, type M (R360). -/
def execAsnhm (r : RegNum) (s : State) : Host.Outcome State Fault Refusal :=
  outcomeOf (applyFunction .m .asnh r s)

/-- ASNH: ASNH, floating type (R361). -/
def execAsnh (r : RegNum) (s : State) : Host.Outcome State Fault Refusal :=
  outcomeOf (applyFunction .f .asnh r s)

/-- ASNHD: ASNH, type D (R362). -/
def execAsnhd (r : RegNum) (s : State) : Host.Outcome State Fault Refusal :=
  outcomeOf (applyFunction .d .asnh r s)

/-- ASNHQ: ASNH, type Q (R363). -/
def execAsnhq (r : RegNum) (s : State) : Host.Outcome State Fault Refusal :=
  outcomeOf (applyFunction .q .asnh r s)

/-- ACSHM: ACSH, type M (R364). -/
def execAcshm (r : RegNum) (s : State) : Host.Outcome State Fault Refusal :=
  outcomeOf (applyFunction .m .acsh r s)

/-- ACSH: ACSH, floating type (R365). -/
def execAcsh (r : RegNum) (s : State) : Host.Outcome State Fault Refusal :=
  outcomeOf (applyFunction .f .acsh r s)

/-- ACSHD: ACSH, type D (R366). -/
def execAcshd (r : RegNum) (s : State) : Host.Outcome State Fault Refusal :=
  outcomeOf (applyFunction .d .acsh r s)

/-- ACSHQ: ACSH, type Q (R367). -/
def execAcshq (r : RegNum) (s : State) : Host.Outcome State Fault Refusal :=
  outcomeOf (applyFunction .q .acsh r s)

/-- ATNHM: ATNH, type M (R368). -/
def execAtnhm (r : RegNum) (s : State) : Host.Outcome State Fault Refusal :=
  outcomeOf (applyFunction .m .atnh r s)

/-- ATNH: ATNH, floating type (R369). -/
def execAtnh (r : RegNum) (s : State) : Host.Outcome State Fault Refusal :=
  outcomeOf (applyFunction .f .atnh r s)

/-- ATNHD: ATNH, type D (R370). -/
def execAtnhd (r : RegNum) (s : State) : Host.Outcome State Fault Refusal :=
  outcomeOf (applyFunction .d .atnh r s)

/-- ATNHQ: ATNH, type Q (R371). -/
def execAtnhq (r : RegNum) (s : State) : Host.Outcome State Fault Refusal :=
  outcomeOf (applyFunction .q .atnh r s)

/-- SQRM: SQR, type M (R372). -/
def execSqrm (r : RegNum) (s : State) : Host.Outcome State Fault Refusal :=
  outcomeOf (applyFunction .m .sqr r s)

/-- SQR: SQR, floating type (R373). -/
def execSqr (r : RegNum) (s : State) : Host.Outcome State Fault Refusal :=
  outcomeOf (applyFunction .f .sqr r s)

/-- SQRD: SQR, type D (R374). -/
def execSqrd (r : RegNum) (s : State) : Host.Outcome State Fault Refusal :=
  outcomeOf (applyFunction .d .sqr r s)

/-- SQRQ: SQR, type Q (R375). -/
def execSqrq (r : RegNum) (s : State) : Host.Outcome State Fault Refusal :=
  outcomeOf (applyFunction .q .sqr r s)

/-- QBRM: QBR, type M (R376). -/
def execQbrm (r : RegNum) (s : State) : Host.Outcome State Fault Refusal :=
  outcomeOf (applyFunction .m .qbr r s)

/-- QBR: QBR, floating type (R377). -/
def execQbr (r : RegNum) (s : State) : Host.Outcome State Fault Refusal :=
  outcomeOf (applyFunction .f .qbr r s)

/-- QBRD: QBR, type D (R378). -/
def execQbrd (r : RegNum) (s : State) : Host.Outcome State Fault Refusal :=
  outcomeOf (applyFunction .d .qbr r s)

/-- QBRQ: QBR, type Q (R379). -/
def execQbrq (r : RegNum) (s : State) : Host.Outcome State Fault Refusal :=
  outcomeOf (applyFunction .q .qbr r s)

/-- LOGM: LOG, type M (R380). -/
def execLogm (r : RegNum) (s : State) : Host.Outcome State Fault Refusal :=
  outcomeOf (applyFunction .m .log r s)

/-- LOG: LOG, floating type (R381). -/
def execLog (r : RegNum) (s : State) : Host.Outcome State Fault Refusal :=
  outcomeOf (applyFunction .f .log r s)

/-- LOGD: LOG, type D (R382). -/
def execLogd (r : RegNum) (s : State) : Host.Outcome State Fault Refusal :=
  outcomeOf (applyFunction .d .log r s)

/-- LOGQ: LOG, type Q (R383). -/
def execLogq (r : RegNum) (s : State) : Host.Outcome State Fault Refusal :=
  outcomeOf (applyFunction .q .log r s)

/-- EXPM: EXP, type M (R384). -/
def execExpm (r : RegNum) (s : State) : Host.Outcome State Fault Refusal :=
  outcomeOf (applyFunction .m .exp r s)

/-- EXP: EXP, floating type (R385). -/
def execExp (r : RegNum) (s : State) : Host.Outcome State Fault Refusal :=
  outcomeOf (applyFunction .f .exp r s)

/-- EXPD: EXP, type D (R386). -/
def execExpd (r : RegNum) (s : State) : Host.Outcome State Fault Refusal :=
  outcomeOf (applyFunction .d .exp r s)

/-- EXPQ: EXP, type Q (R387). -/
def execExpq (r : RegNum) (s : State) : Host.Outcome State Fault Refusal :=
  outcomeOf (applyFunction .q .exp r s)

/-- CLRQ: CLRQ (R388). -/
def execClrq (r : RegNum) (s : State) : Host.Outcome State Fault Refusal :=
  outcomeOf (applyFunction .q .clr r s)

/-- ABSQ: ABSQ (R389). -/
def execAbsq (r : RegNum) (s : State) : Host.Outcome State Fault Refusal :=
  outcomeOf (applyFunction .q .abs r s)

/-- SGNQ: SGNQ (R390). -/
def execSgnq (r : RegNum) (s : State) : Host.Outcome State Fault Refusal :=
  outcomeOf (applyFunction .q .sgn r s)

/-- NEGQ: NEGQ (R391). -/
def execNegq (r : RegNum) (s : State) : Host.Outcome State Fault Refusal :=
  outcomeOf (applyFunction .q .neg r s)

end Sys2Proof.Machine
end

