-- ==== Sys2Proof/Machine/MultipleRegister.lean ====
section
/-! DEFINITION. Multiple-register and supplementary loads and stores (40_multiple_register.md). None changes
a status word, none requires alignment (R135). -/

namespace Sys2Proof.Machine

/-- Load a range from `EA0` on (R132, R133): the address is computed before any register is written. -/
def loadMultiple (i : Instr) (file : FileName) (r1 r2 rB : RegNum) (addr : Half) (s : State) : Except Fault State := do
  checkRange i r1 r2
  let s' ← loadRange file (rangeCount r1 r2) r1 (ea0 rB addr s).toNat s
  advance 4 s'

/-- Store a range from `EA0` on (R132, R133). -/
def storeMultiple (i : Instr) (file : FileName) (r1 r2 rB : RegNum) (addr : Half) (s : State) : Except Fault State := do
  checkRange i r1 r2
  let s' ← storeRange file (rangeCount r1 r2) r1 (ea0 rB addr s).toNat s
  advance 4 s'

/-- POP (R134): the length is subtracted from `b[0]` first, then the range is loaded from there. -/
def popMultiple (i : Instr) (file : FileName) (r1 r2 : RegNum) (s : State) : Except Fault State := do
  checkRange i r1 r2
  let s' ← shrinkStack (rangeCount r1 r2 * s.elementBytes file) s
  let s'' ← loadRange file (rangeCount r1 r2) r1 (s'.b.read 0).toNat s'
  advance 2 s''

/-- PUSH (R134): the range is stored at `b[0]`, then the length is added to it. -/
def pushMultiple (i : Instr) (file : FileName) (r1 r2 : RegNum) (s : State) : Except Fault State := do
  checkRange i r1 r2
  let s' ← storeRange file (rangeCount r1 r2) r1 (s.b.read 0).toNat s
  let s'' ← growStack (rangeCount r1 r2 * s.elementBytes file) s'
  advance 2 s''

/-- A POP of base registers may not include `b[0]` (R146). -/
def checkNoStackPointer (i : Instr) (r1 r2 : RegNum) : Except Fault Unit :=
  if r1 = 0 then .error (.reservedOperand i (.popsStackPointer r2)) else .ok ()

/-- Load one register from `EA0` (R148). -/
def loadOne (file : FileName) (r rB : RegNum) (addr : Half) (s : State) : Except Fault State := do
  let v ← memRead s (ea0 rB addr s).toNat (s.elementBytes file)
  advance 4 (s.writeFile file r v)

/-- Store one register at `EA0` (R148). -/
def storeOne (file : FileName) (r rB : RegNum) (addr : Half) (s : State) : Except Fault State := do
  let s' ← memWrite s (ea0 rB addr s).toNat (s.elementBytes file) (s.readFile file r)
  advance 4 s'

/-- LMU: Load Multiple (R136). -/
def execLmu (r1 r2 rB : RegNum) (addr : Half) (s : State) : Host.Outcome State Fault Refusal :=
  outcomeOf (loadMultiple (.lmu r1 r2 rB addr) .x r1 r2 rB addr s)

/-- STMU: Store Multiple (R137). -/
def execStmu (r1 r2 rB : RegNum) (addr : Half) (s : State) : Host.Outcome State Fault Refusal :=
  outcomeOf (storeMultiple (.stmu r1 r2 rB addr) .x r1 r2 rB addr s)

/-- LMUBR: Load Multiple Base Registers (R138). -/
def execLmubr (r1 r2 rB : RegNum) (addr : Half) (s : State) : Host.Outcome State Fault Refusal :=
  outcomeOf (loadMultiple (.lmubr r1 r2 rB addr) .b r1 r2 rB addr s)

/-- STMUBR: Store Multiple Base Registers (R139). -/
def execStmubr (r1 r2 rB : RegNum) (addr : Half) (s : State) : Host.Outcome State Fault Refusal :=
  outcomeOf (storeMultiple (.stmubr r1 r2 rB addr) .b r1 r2 rB addr s)

/-- LMUQ: Load Multiple Quad (R140). -/
def execLmuq (r1 r2 rB : RegNum) (addr : Half) (s : State) : Host.Outcome State Fault Refusal :=
  outcomeOf (loadMultiple (.lmuq r1 r2 rB addr) .f r1 r2 rB addr s)

/-- STMUQ: Store Multiple Quad (R141). -/
def execStmuq (r1 r2 rB : RegNum) (addr : Half) (s : State) : Host.Outcome State Fault Refusal :=
  outcomeOf (storeMultiple (.stmuq r1 r2 rB addr) .f r1 r2 rB addr s)

/-- SLBR: Supplementary Load Base Register (R149). -/
def execSlbr (r rB : RegNum) (addr : Half) (s : State) : Host.Outcome State Fault Refusal :=
  outcomeOf (loadOne .b r rB addr s)

/-- SSTBR: Supplementary Store Base Register (R150). -/
def execSstbr (r rB : RegNum) (addr : Half) (s : State) : Host.Outcome State Fault Refusal :=
  outcomeOf (storeOne .b r rB addr s)

/-- SLSB: Supplementary Load Scratchpad Base (R151). -/
def execSlsb (r rB : RegNum) (addr : Half) (s : State) : Host.Outcome State Fault Refusal :=
  outcomeOf (loadOne .sb r rB addr s)

/-- SSSB: Supplementary Store Scratchpad Base (R152). -/
def execSssb (r rB : RegNum) (addr : Half) (s : State) : Host.Outcome State Fault Refusal :=
  outcomeOf (storeOne .sb r rB addr s)

/-- SLPSB: Supplementary Load Pointer Scratchpad Base (R153). -/
def execSlpsb (r rB : RegNum) (addr : Half) (s : State) : Host.Outcome State Fault Refusal :=
  outcomeOf (loadOne .psb r rB addr s)

/-- SSPSB: Supplementary Store Pointer Scratchpad Base (R154). -/
def execSspsb (r rB : RegNum) (addr : Half) (s : State) : Host.Outcome State Fault Refusal :=
  outcomeOf (storeOne .psb r rB addr s)

/-- SLASB: Supplementary Load Array Scratchpad Base (R155). -/
def execSlasb (r rB : RegNum) (addr : Half) (s : State) : Host.Outcome State Fault Refusal :=
  outcomeOf (loadOne .asb r rB addr s)

/-- SSASB: Supplementary Store Array Scratchpad Base (R156). -/
def execSsasb (r rB : RegNum) (addr : Half) (s : State) : Host.Outcome State Fault Refusal :=
  outcomeOf (storeOne .asb r rB addr s)

/-- LMU with base register zero: POP of arithmetic/index registers (R142). -/
def execLmuPop (r1 r2 : RegNum) (s : State) : Host.Outcome State Fault Refusal :=
  outcomeOf (popMultiple (.lmuPop r1 r2) .x r1 r2 s)

/-- STMU with base register zero: PUSH of arithmetic/index registers (R143). -/
def execStmuPush (r1 r2 : RegNum) (s : State) : Host.Outcome State Fault Refusal :=
  outcomeOf (pushMultiple (.stmuPush r1 r2) .x r1 r2 s)

/-- LMUBR with base register zero: POP of base registers (R144). A range that includes `b[0]` has no meaning (R146). -/
def execLmubrPop (r1 r2 : RegNum) (s : State) : Host.Outcome State Fault Refusal :=
  outcomeOf do
    checkRange (.lmubrPop r1 r2) r1 r2
    checkNoStackPointer (.lmubrPop r1 r2) r1 r2
    popMultiple (.lmubrPop r1 r2) .b r1 r2 s

/-- STMUBR with base register zero: PUSH of base registers (R145). -/
def execStmubrPush (r1 r2 : RegNum) (s : State) : Host.Outcome State Fault Refusal :=
  outcomeOf (pushMultiple (.stmubrPush r1 r2) .b r1 r2 s)

/-- LMUQ with base register zero: POP of floating-point registers (R147). -/
def execLmuqPop (r1 r2 : RegNum) (s : State) : Host.Outcome State Fault Refusal :=
  outcomeOf (popMultiple (.lmuqPop r1 r2) .f r1 r2 s)

/-- STMUQ with base register zero: PUSH of floating-point registers (R157). -/
def execStmuqPush (r1 r2 : RegNum) (s : State) : Host.Outcome State Fault Refusal :=
  outcomeOf (pushMultiple (.stmuqPush r1 r2) .f r1 r2 s)

end Sys2Proof.Machine
end

