-- ==== Sys2Proof/Machine/Shifts.lean ====
section
/-! DEFINITION. Shifts and rotates (43_shifts.md). -/

namespace Sys2Proof.Machine

/-- The result of a shift operation on a `w`-bit operand with count `n` and carry-in `c` (R234). -/
def shiftResult {w : Nat} (op : ShiftOp) (n : Nat) (c : Bool) (v : BitVec w) : BitVec w :=
  match op with
  | .shl => v <<< n
  | .shr => v >>> n
  | .asr => v.sshiftRight n
  | .rol => v.rotateLeft n
  | .ror => v.rotateRight n
  | .rlc => ((BitVec.cons c v).rotateLeft n).setWidth w
  | .rrc => ((BitVec.cons c v).rotateRight n).setWidth w

/-- The carry a shift operation states: the rotates through carry rotate it, the others state none (R234, R235). -/
def shiftCarry {w : Nat} (op : ShiftOp) (n : Nat) (c : Bool) (v : BitVec w) : Option Bool :=
  match op with
  | .shl => none
  | .shr => none
  | .asr => none
  | .rol => none
  | .ror => none
  | .rlc => some ((BitVec.cons c v).rotateLeft n).msb
  | .rrc => some ((BitVec.cons c v).rotateRight n).msb

/-- A Byte or Halfword shift (R231, R233). -/
def shiftNarrow (op : ShiftOp) (w : Nat) (r : RegNum) (n : Nat) (s : State) : Except Fault State :=
  let v : BitVec w := readNarrow w r s
  advance 2 (setFlags (shiftCarry op n s.sw.c v) none none (writeNarrow r (shiftResult op n s.sw.c v) s))

/-- A word shift (R231). -/
def shiftWord (op : ShiftOp) (r : RegNum) (n : Nat) (s : State) : Except Fault State :=
  let v := s.x.read r
  advance 2 (setFlags (shiftCarry op n s.sw.c v) none none (s.setX r (shiftResult op n s.sw.c v)))

/-- A Long shift, on an even pair (R231). -/
def shiftLong (i : Instr) (op : ShiftOp) (r : RegNum) (n : Nat) (s : State) : Except Fault State := do
  checkEven i r
  let v := readPair r s
  advance 2 (setFlags (shiftCarry op n s.sw.c v) none none (writePair r (shiftResult op n s.sw.c v) s))

/-- SHLB: Shift Left Byte (R237). -/
def execShlb (r : RegNum) (n : BitVec 3) (s : State) : Host.Outcome State Fault Refusal :=
  outcomeOf (shiftNarrow .shl 8 r n.toNat s)

/-- SHRB: Shift Right Byte (R238). -/
def execShrb (r : RegNum) (n : BitVec 3) (s : State) : Host.Outcome State Fault Refusal :=
  outcomeOf (shiftNarrow .shr 8 r n.toNat s)

/-- ASRB: Arithmetic Shift Right Byte (R239). -/
def execAsrb (r : RegNum) (n : BitVec 3) (s : State) : Host.Outcome State Fault Refusal :=
  outcomeOf (shiftNarrow .asr 8 r n.toNat s)

/-- ROLB: Rotate Left Byte (R240). -/
def execRolb (r : RegNum) (n : BitVec 3) (s : State) : Host.Outcome State Fault Refusal :=
  outcomeOf (shiftNarrow .rol 8 r n.toNat s)

/-- RORB: Rotate Right Byte (R241). -/
def execRorb (r : RegNum) (n : BitVec 3) (s : State) : Host.Outcome State Fault Refusal :=
  outcomeOf (shiftNarrow .ror 8 r n.toNat s)

/-- RLCB: Rotate Left through Carry Byte (R242). -/
def execRlcb (r : RegNum) (n : BitVec 3) (s : State) : Host.Outcome State Fault Refusal :=
  outcomeOf (shiftNarrow .rlc 8 r n.toNat s)

/-- RRCB: Rotate Right through Carry Byte (R243). -/
def execRrcb (r : RegNum) (n : BitVec 3) (s : State) : Host.Outcome State Fault Refusal :=
  outcomeOf (shiftNarrow .rrc 8 r n.toNat s)

/-- SHLH: Shift Left Halfword (R244). -/
def execShlh (r : RegNum) (n : BitVec 4) (s : State) : Host.Outcome State Fault Refusal :=
  outcomeOf (shiftNarrow .shl 16 r n.toNat s)

/-- SHRH: Shift Right Halfword (R245). -/
def execShrh (r : RegNum) (n : BitVec 4) (s : State) : Host.Outcome State Fault Refusal :=
  outcomeOf (shiftNarrow .shr 16 r n.toNat s)

/-- ASRH: Arithmetic Shift Right Halfword (R246). -/
def execAsrh (r : RegNum) (n : BitVec 4) (s : State) : Host.Outcome State Fault Refusal :=
  outcomeOf (shiftNarrow .asr 16 r n.toNat s)

/-- ROLH: Rotate Left Halfword (R247). -/
def execRolh (r : RegNum) (n : BitVec 4) (s : State) : Host.Outcome State Fault Refusal :=
  outcomeOf (shiftNarrow .rol 16 r n.toNat s)

/-- RORH: Rotate Right Halfword (R248). -/
def execRorh (r : RegNum) (n : BitVec 4) (s : State) : Host.Outcome State Fault Refusal :=
  outcomeOf (shiftNarrow .ror 16 r n.toNat s)

/-- RLCH: Rotate Left through Carry Halfword (R249). -/
def execRlch (r : RegNum) (n : BitVec 4) (s : State) : Host.Outcome State Fault Refusal :=
  outcomeOf (shiftNarrow .rlc 16 r n.toNat s)

/-- RRCH: Rotate Right through Carry Halfword (R250). -/
def execRrch (r : RegNum) (n : BitVec 4) (s : State) : Host.Outcome State Fault Refusal :=
  outcomeOf (shiftNarrow .rrc 16 r n.toNat s)

/-- SHL: Shift Left (R251). -/
def execShl (r : RegNum) (n : BitVec 5) (s : State) : Host.Outcome State Fault Refusal :=
  outcomeOf (shiftWord .shl r n.toNat s)

/-- SHR: Shift Right (R252). -/
def execShr (r : RegNum) (n : BitVec 5) (s : State) : Host.Outcome State Fault Refusal :=
  outcomeOf (shiftWord .shr r n.toNat s)

/-- ASR: Arithmetic Shift Right (R253). -/
def execAsr (r : RegNum) (n : BitVec 5) (s : State) : Host.Outcome State Fault Refusal :=
  outcomeOf (shiftWord .asr r n.toNat s)

/-- ROL: Rotate Left (R254). -/
def execRol (r : RegNum) (n : BitVec 5) (s : State) : Host.Outcome State Fault Refusal :=
  outcomeOf (shiftWord .rol r n.toNat s)

/-- ROR: Rotate Right (R255). -/
def execRor (r : RegNum) (n : BitVec 5) (s : State) : Host.Outcome State Fault Refusal :=
  outcomeOf (shiftWord .ror r n.toNat s)

/-- RLC: Rotate Left through Carry (R256). -/
def execRlc (r : RegNum) (n : BitVec 5) (s : State) : Host.Outcome State Fault Refusal :=
  outcomeOf (shiftWord .rlc r n.toNat s)

/-- RRC: Rotate Right through Carry (R257). -/
def execRrc (r : RegNum) (n : BitVec 5) (s : State) : Host.Outcome State Fault Refusal :=
  outcomeOf (shiftWord .rrc r n.toNat s)

/-- SHLL: Shift Left Long (R258). -/
def execShll (r : RegNum) (n : BitVec 6) (s : State) : Host.Outcome State Fault Refusal :=
  outcomeOf (shiftLong (.shll r n) .shl r n.toNat s)

/-- SHRL: Shift Right Long (R259). -/
def execShrl (r : RegNum) (n : BitVec 6) (s : State) : Host.Outcome State Fault Refusal :=
  outcomeOf (shiftLong (.shrl r n) .shr r n.toNat s)

/-- ASRL: Arithmetic Shift Right Long (R260). -/
def execAsrl (r : RegNum) (n : BitVec 6) (s : State) : Host.Outcome State Fault Refusal :=
  outcomeOf (shiftLong (.asrl r n) .asr r n.toNat s)

/-- ROLL: Rotate Left Long (R261). -/
def execRoll (r : RegNum) (n : BitVec 6) (s : State) : Host.Outcome State Fault Refusal :=
  outcomeOf (shiftLong (.roll r n) .rol r n.toNat s)

/-- RORL: Rotate Right Long (R262). -/
def execRorl (r : RegNum) (n : BitVec 6) (s : State) : Host.Outcome State Fault Refusal :=
  outcomeOf (shiftLong (.rorl r n) .ror r n.toNat s)

/-- RLCL: Rotate Left through Carry Long (R263). -/
def execRlcl (r : RegNum) (n : BitVec 6) (s : State) : Host.Outcome State Fault Refusal :=
  outcomeOf (shiftLong (.rlcl r n) .rlc r n.toNat s)

/-- RRCL: Rotate Right through Carry Long (R264). -/
def execRrcl (r : RegNum) (n : BitVec 6) (s : State) : Host.Outcome State Fault Refusal :=
  outcomeOf (shiftLong (.rrcl r n) .rrc r n.toNat s)

end Sys2Proof.Machine
end

