-- ==== Sys2Proof/Machine/SingleOperand.lean ====
section
/-! DEFINITION. Single-operand and normalize instructions (45_single_operand.md). -/

namespace Sys2Proof.Machine

/-- The operand with only its first bit set, which Negate cannot change (R300, R302). -/
def mostNegative {w : Nat} (v : BitVec w) : Bool := v == BitVec.intMin w

/-- Negate, where the operand is negative (R300). -/
def absolute {w : Nat} (v : BitVec w) : BitVec w := if v.msb then -v else v

/-- The flags of NEG and ABS, from the operand and the result (R302). -/
def negateFlags {w : Nat} (v v' : BitVec w) (s : State) : State :=
  setFlags none (some (mostNegative v)) (some (signOf v')) s

/-- The number of leading zeros among the low `i` bits of `v`. -/
def leadingZerosBelow {w : Nat} (v : BitVec w) : Nat → Nat
  | 0 => 0
  | i + 1 => if v.getLsbD i then 0 else 1 + leadingZerosBelow v i

/-- The number of leading zero bits of `v` within its width (R312). -/
def leadingZeros {w : Nat} (v : BitVec w) : Nat := leadingZerosBelow v w

/-- The operand of a normalize is not zero (R313). -/
def checkNonzero {w : Nat} (i : Instr) (rS : RegNum) (v : BitVec w) : Except Fault Unit :=
  if v = 0 then .error (.reservedOperand i (.normalizeZero rS)) else .ok ()

/-- The destination of a normalize is not its source (R313). -/
def checkApart (i : Instr) (rD rS : RegNum) : Except Fault Unit :=
  if rD = rS then .error (.reservedOperand i (.normalizeOverlap rD rS)) else .ok ()

/-- NB or NH (R312). An overlap is reported before a zero operand (DESIGN CHOICE, log entry 24). -/
def normalizeNarrow (i : Instr) (w : Nat) (rD rS : RegNum) (s : State) : Except Fault State := do
  checkApart i rD rS
  let v : BitVec w := readNarrow w rS s
  checkNonzero i rS v
  let k := leadingZeros v
  advance 2 (setFlags none none none ((writeNarrow rS (v <<< k) s).setX rD (BitVec.ofNat 32 k)))

/-- N (R312). An overlap is reported before a zero operand (DESIGN CHOICE, log entry 24). -/
def normalizeWord (i : Instr) (rD rS : RegNum) (s : State) : Except Fault State := do
  checkApart i rD rS
  let v := s.x.read rS
  checkNonzero i rS v
  let k := leadingZeros v
  advance 2 (setFlags none none none ((s.setX rS (v <<< k)).setX rD (BitVec.ofNat 32 k)))

/-- NL, on an even source pair that does not hold the destination (R312, R313). An odd source is reported before an
overlap, and an overlap before a zero operand: R405 does not order them. DESIGN CHOICE, log entry 24. -/
def normalizeLong (i : Instr) (rD rS : RegNum) (s : State) : Except Fault State := do
  checkEven i rS
  checkApart i rD rS
  checkApart i rD (rS + 1)
  let v := readPair rS s
  checkNonzero i rS v
  let k := leadingZeros v
  advance 2 (setFlags none none none ((writePair rS (v <<< k) s).setX rD (BitVec.ofNat 32 k)))

/-- Replace `x[r]`, with no flag stated (R302). -/
def replaceWord (r : RegNum) (v' : Word) (s : State) : Except Fault State :=
  advance 2 (setFlags none none none (s.setX r v'))

/-- Replace an even pair, with no flag stated (R301, R302). -/
def replaceLong (i : Instr) (r : RegNum) (v' : Long) (s : State) : Except Fault State := do
  checkEven i r
  advance 2 (setFlags none none none (writePair r v' s))

/-- Replace `x[r]` by what an arithmetic operation makes of it, with the flags of NEG and ABS (R302). -/
def arithmeticWord (op : Word → Word) (r : RegNum) (s : State) : Except Fault State :=
  let v := s.x.read r
  advance 2 (negateFlags v (op v) (s.setX r (op v)))

/-- The same on an even pair (R301, R302). -/
def arithmeticLong (i : Instr) (op : Long → Long) (r : RegNum) (s : State) : Except Fault State := do
  checkEven i r
  let v := readPair r s
  advance 2 (negateFlags v (op v) (writePair r (op v) s))

/-- CLR: Clear (R304). -/
def execClr (r : RegNum) (s : State) : Host.Outcome State Fault Refusal :=
  outcomeOf (replaceWord r 0 s)

/-- CLRL: Clear Long (R305). -/
def execClrl (r : RegNum) (s : State) : Host.Outcome State Fault Refusal :=
  outcomeOf (replaceLong (.clrl r) r 0 s)

/-- ABS: Absolute Value (R306). -/
def execAbs (r : RegNum) (s : State) : Host.Outcome State Fault Refusal :=
  outcomeOf (arithmeticWord absolute r s)

/-- ABSL: Absolute Value Long (R307). -/
def execAbsl (r : RegNum) (s : State) : Host.Outcome State Fault Refusal :=
  outcomeOf (arithmeticLong (.absl r) absolute r s)

/-- INV: Invert (R308). -/
def execInv (r : RegNum) (s : State) : Host.Outcome State Fault Refusal :=
  outcomeOf (replaceWord r (~~~(s.x.read r)) s)

/-- INVL: Invert Long (R309). -/
def execInvl (r : RegNum) (s : State) : Host.Outcome State Fault Refusal :=
  outcomeOf (replaceLong (.invl r) r (~~~(readPair r s)) s)

/-- NEG: Negate (R310). -/
def execNeg (r : RegNum) (s : State) : Host.Outcome State Fault Refusal :=
  outcomeOf (arithmeticWord (fun v => -v) r s)

/-- NEGL: Negate Long (R311). -/
def execNegl (r : RegNum) (s : State) : Host.Outcome State Fault Refusal :=
  outcomeOf (arithmeticLong (.negl r) (fun v => -v) r s)

/-- NB: Normalize Byte (R315). -/
def execNb (rD rS : RegNum) (s : State) : Host.Outcome State Fault Refusal :=
  outcomeOf (normalizeNarrow (.nb rD rS) 8 rD rS s)

/-- NH: Normalize Halfword (R316). -/
def execNh (rD rS : RegNum) (s : State) : Host.Outcome State Fault Refusal :=
  outcomeOf (normalizeNarrow (.nh rD rS) 16 rD rS s)

/-- N: Normalize (R317). -/
def execN (rD rS : RegNum) (s : State) : Host.Outcome State Fault Refusal :=
  outcomeOf (normalizeWord (.n rD rS) rD rS s)

/-- NL: Normalize Long (R318). -/
def execNl (rD rS : RegNum) (s : State) : Host.Outcome State Fault Refusal :=
  outcomeOf (normalizeLong (.nl rD rS) rD rS s)

end Sys2Proof.Machine
end

