-- ==== Sys2Proof/Machine/Dispatch.lean ====
section
/-! DEFINITION. The meaning of each instruction, one arm per constructor. -/

namespace Sys2Proof.Machine

def exec (i : Instr) (s : State) : Host.Outcome State Fault Refusal :=
  match i with
  -- Multiple-register and supplementary loads and stores (40_multiple_register.md)
  | .lmu r1 r2 rB addr => Sys2Proof.Machine.execLmu r1 r2 rB addr s
  | .stmu r1 r2 rB addr => Sys2Proof.Machine.execStmu r1 r2 rB addr s
  | .lmubr r1 r2 rB addr => Sys2Proof.Machine.execLmubr r1 r2 rB addr s
  | .stmubr r1 r2 rB addr => Sys2Proof.Machine.execStmubr r1 r2 rB addr s
  | .lmuq r1 r2 rB addr => Sys2Proof.Machine.execLmuq r1 r2 rB addr s
  | .stmuq r1 r2 rB addr => Sys2Proof.Machine.execStmuq r1 r2 rB addr s
  | .slbr r rB addr => Sys2Proof.Machine.execSlbr r rB addr s
  | .sstbr r rB addr => Sys2Proof.Machine.execSstbr r rB addr s
  | .slsb r rB addr => Sys2Proof.Machine.execSlsb r rB addr s
  | .sssb r rB addr => Sys2Proof.Machine.execSssb r rB addr s
  | .slpsb r rB addr => Sys2Proof.Machine.execSlpsb r rB addr s
  | .sspsb r rB addr => Sys2Proof.Machine.execSspsb r rB addr s
  | .slasb r rB addr => Sys2Proof.Machine.execSlasb r rB addr s
  | .ssasb r rB addr => Sys2Proof.Machine.execSsasb r rB addr s
  | .lmuPop r1 r2 => Sys2Proof.Machine.execLmuPop r1 r2 s
  | .stmuPush r1 r2 => Sys2Proof.Machine.execStmuPush r1 r2 s
  | .lmubrPop r1 r2 => Sys2Proof.Machine.execLmubrPop r1 r2 s
  | .stmubrPush r1 r2 => Sys2Proof.Machine.execStmubrPush r1 r2 s
  | .lmuqPop r1 r2 => Sys2Proof.Machine.execLmuqPop r1 r2 s
  | .stmuqPush r1 r2 => Sys2Proof.Machine.execStmuqPush r1 r2 s
  -- Jumps, jump to subroutine, count-and-compare jumps, long branches (41_jumps.md)
  | .jms rR rX rB addr => Sys2Proof.Machine.execJms rR rX rB addr s
  | .lbl disp => Sys2Proof.Machine.execLbl disp s
  | .lbe disp => Sys2Proof.Machine.execLbe disp s
  | .lble disp => Sys2Proof.Machine.execLble disp s
  | .lbh disp => Sys2Proof.Machine.execLbh disp s
  | .lbne disp => Sys2Proof.Machine.execLbne disp s
  | .lbhe disp => Sys2Proof.Machine.execLbhe disp s
  | .lbnv disp => Sys2Proof.Machine.execLbnv disp s
  | .lbv disp => Sys2Proof.Machine.execLbv disp s
  | .lbc disp => Sys2Proof.Machine.execLbc disp s
  | .lbnc disp => Sys2Proof.Machine.execLbnc disp s
  | .lbra disp => Sys2Proof.Machine.execLbra disp s
  | .lbxh cR lR disp => Sys2Proof.Machine.execLbxh cR lR disp s
  | .lbxle cR lR disp => Sys2Proof.Machine.execLbxle cR lR disp s
  | .lbrs rR disp => Sys2Proof.Machine.execLbrs rR disp s
  | .jl rX rB addr => Sys2Proof.Machine.execJl rX rB addr s
  | .je rX rB addr => Sys2Proof.Machine.execJe rX rB addr s
  | .jle rX rB addr => Sys2Proof.Machine.execJle rX rB addr s
  | .jh rX rB addr => Sys2Proof.Machine.execJh rX rB addr s
  | .jne rX rB addr => Sys2Proof.Machine.execJne rX rB addr s
  | .jhe rX rB addr => Sys2Proof.Machine.execJhe rX rB addr s
  | .jnv rX rB addr => Sys2Proof.Machine.execJnv rX rB addr s
  | .jv rX rB addr => Sys2Proof.Machine.execJv rX rB addr s
  | .jc rX rB addr => Sys2Proof.Machine.execJc rX rB addr s
  | .jnc rX rB addr => Sys2Proof.Machine.execJnc rX rB addr s
  | .jmp rX rB addr => Sys2Proof.Machine.execJmp rX rB addr s
  | .jvl rX rB addr => Sys2Proof.Machine.execJvl rX rB addr s
  | .jve rX rB addr => Sys2Proof.Machine.execJve rX rB addr s
  | .jvle rX rB addr => Sys2Proof.Machine.execJvle rX rB addr s
  | .jvh rX rB addr => Sys2Proof.Machine.execJvh rX rB addr s
  | .jvne rX rB addr => Sys2Proof.Machine.execJvne rX rB addr s
  | .jvhe rX rB addr => Sys2Proof.Machine.execJvhe rX rB addr s
  | .jvnv rX rB addr => Sys2Proof.Machine.execJvnv rX rB addr s
  | .jvv rX rB addr => Sys2Proof.Machine.execJvv rX rB addr s
  | .jvc rX rB addr => Sys2Proof.Machine.execJvc rX rB addr s
  | .jvnc rX rB addr => Sys2Proof.Machine.execJvnc rX rB addr s
  | .jxh cR lR rB addr => Sys2Proof.Machine.execJxh cR lR rB addr s
  | .jxle cR lR rB addr => Sys2Proof.Machine.execJxle cR lR rB addr s
  -- Extensible shifts (42_extensible_shift.md)
  | .esl rD rS conn n => Sys2Proof.Machine.execEsl rD rS conn n s
  | .esr rD rS conn n => Sys2Proof.Machine.execEsr rD rS conn n s
  -- Shifts and rotates (43_shifts.md)
  | .shlb r n => Sys2Proof.Machine.execShlb r n s
  | .shrb r n => Sys2Proof.Machine.execShrb r n s
  | .asrb r n => Sys2Proof.Machine.execAsrb r n s
  | .rolb r n => Sys2Proof.Machine.execRolb r n s
  | .rorb r n => Sys2Proof.Machine.execRorb r n s
  | .rlcb r n => Sys2Proof.Machine.execRlcb r n s
  | .rrcb r n => Sys2Proof.Machine.execRrcb r n s
  | .shlh r n => Sys2Proof.Machine.execShlh r n s
  | .shrh r n => Sys2Proof.Machine.execShrh r n s
  | .asrh r n => Sys2Proof.Machine.execAsrh r n s
  | .rolh r n => Sys2Proof.Machine.execRolh r n s
  | .rorh r n => Sys2Proof.Machine.execRorh r n s
  | .rlch r n => Sys2Proof.Machine.execRlch r n s
  | .rrch r n => Sys2Proof.Machine.execRrch r n s
  | .shl r n => Sys2Proof.Machine.execShl r n s
  | .shr r n => Sys2Proof.Machine.execShr r n s
  | .asr r n => Sys2Proof.Machine.execAsr r n s
  | .rol r n => Sys2Proof.Machine.execRol r n s
  | .ror r n => Sys2Proof.Machine.execRor r n s
  | .rlc r n => Sys2Proof.Machine.execRlc r n s
  | .rrc r n => Sys2Proof.Machine.execRrc r n s
  | .shll r n => Sys2Proof.Machine.execShll r n s
  | .shrl r n => Sys2Proof.Machine.execShrl r n s
  | .asrl r n => Sys2Proof.Machine.execAsrl r n s
  | .roll r n => Sys2Proof.Machine.execRoll r n s
  | .rorl r n => Sys2Proof.Machine.execRorl r n s
  | .rlcl r n => Sys2Proof.Machine.execRlcl r n s
  | .rrcl r n => Sys2Proof.Machine.execRrcl r n s
  -- Branches and returns (44_branch_return.md)
  | .bl disp => Sys2Proof.Machine.execBl disp s
  | .be disp => Sys2Proof.Machine.execBe disp s
  | .ble disp => Sys2Proof.Machine.execBle disp s
  | .bh disp => Sys2Proof.Machine.execBh disp s
  | .bne disp => Sys2Proof.Machine.execBne disp s
  | .bhe disp => Sys2Proof.Machine.execBhe disp s
  | .bnv disp => Sys2Proof.Machine.execBnv disp s
  | .bv disp => Sys2Proof.Machine.execBv disp s
  | .bc disp => Sys2Proof.Machine.execBc disp s
  | .bnc disp => Sys2Proof.Machine.execBnc disp s
  | .bra disp => Sys2Proof.Machine.execBra disp s
  | .rl => Sys2Proof.Machine.execRl s
  | .re => Sys2Proof.Machine.execRe s
  | .rle => Sys2Proof.Machine.execRle s
  | .rh => Sys2Proof.Machine.execRh s
  | .rne => Sys2Proof.Machine.execRne s
  | .rhe => Sys2Proof.Machine.execRhe s
  | .rnv => Sys2Proof.Machine.execRnv s
  | .rv => Sys2Proof.Machine.execRv s
  | .rc => Sys2Proof.Machine.execRc s
  | .rnc => Sys2Proof.Machine.execRnc s
  | .rss => Sys2Proof.Machine.execRss s
  -- Single-operand and normalize instructions (45_single_operand.md)
  | .clr r => Sys2Proof.Machine.execClr r s
  | .clrl r => Sys2Proof.Machine.execClrl r s
  | .abs r => Sys2Proof.Machine.execAbs r s
  | .absl r => Sys2Proof.Machine.execAbsl r s
  | .inv r => Sys2Proof.Machine.execInv r s
  | .invl r => Sys2Proof.Machine.execInvl r s
  | .neg r => Sys2Proof.Machine.execNeg r s
  | .negl r => Sys2Proof.Machine.execNegl r s
  | .nb rD rS => Sys2Proof.Machine.execNb rD rS s
  | .nh rD rS => Sys2Proof.Machine.execNh rD rS s
  | .n rD rS => Sys2Proof.Machine.execN rD rS s
  | .nl rD rS => Sys2Proof.Machine.execNl rD rS s
  -- Mathematical functions (46_math_functions.md)
  | .sinm r => Sys2Proof.Machine.execSinm r s
  | .sin r => Sys2Proof.Machine.execSin r s
  | .sind r => Sys2Proof.Machine.execSind r s
  | .sinq r => Sys2Proof.Machine.execSinq r s
  | .cosm r => Sys2Proof.Machine.execCosm r s
  | .cos r => Sys2Proof.Machine.execCos r s
  | .cosd r => Sys2Proof.Machine.execCosd r s
  | .cosq r => Sys2Proof.Machine.execCosq r s
  | .tanm r => Sys2Proof.Machine.execTanm r s
  | .tan r => Sys2Proof.Machine.execTan r s
  | .tand r => Sys2Proof.Machine.execTand r s
  | .tanq r => Sys2Proof.Machine.execTanq r s
  | .asnm r => Sys2Proof.Machine.execAsnm r s
  | .asn r => Sys2Proof.Machine.execAsn r s
  | .asnd r => Sys2Proof.Machine.execAsnd r s
  | .asnq r => Sys2Proof.Machine.execAsnq r s
  | .acsm r => Sys2Proof.Machine.execAcsm r s
  | .acs r => Sys2Proof.Machine.execAcs r s
  | .acsd r => Sys2Proof.Machine.execAcsd r s
  | .acsq r => Sys2Proof.Machine.execAcsq r s
  | .atnm r => Sys2Proof.Machine.execAtnm r s
  | .atn r => Sys2Proof.Machine.execAtn r s
  | .atnd r => Sys2Proof.Machine.execAtnd r s
  | .atnq r => Sys2Proof.Machine.execAtnq r s
  | .sinhm r => Sys2Proof.Machine.execSinhm r s
  | .sinh r => Sys2Proof.Machine.execSinh r s
  | .sinhd r => Sys2Proof.Machine.execSinhd r s
  | .sinhq r => Sys2Proof.Machine.execSinhq r s
  | .coshm r => Sys2Proof.Machine.execCoshm r s
  | .cosh r => Sys2Proof.Machine.execCosh r s
  | .coshd r => Sys2Proof.Machine.execCoshd r s
  | .coshq r => Sys2Proof.Machine.execCoshq r s
  | .tanhm r => Sys2Proof.Machine.execTanhm r s
  | .tanh r => Sys2Proof.Machine.execTanh r s
  | .tanhd r => Sys2Proof.Machine.execTanhd r s
  | .tanhq r => Sys2Proof.Machine.execTanhq r s
  | .asnhm r => Sys2Proof.Machine.execAsnhm r s
  | .asnh r => Sys2Proof.Machine.execAsnh r s
  | .asnhd r => Sys2Proof.Machine.execAsnhd r s
  | .asnhq r => Sys2Proof.Machine.execAsnhq r s
  | .acshm r => Sys2Proof.Machine.execAcshm r s
  | .acsh r => Sys2Proof.Machine.execAcsh r s
  | .acshd r => Sys2Proof.Machine.execAcshd r s
  | .acshq r => Sys2Proof.Machine.execAcshq r s
  | .atnhm r => Sys2Proof.Machine.execAtnhm r s
  | .atnh r => Sys2Proof.Machine.execAtnh r s
  | .atnhd r => Sys2Proof.Machine.execAtnhd r s
  | .atnhq r => Sys2Proof.Machine.execAtnhq r s
  | .sqrm r => Sys2Proof.Machine.execSqrm r s
  | .sqr r => Sys2Proof.Machine.execSqr r s
  | .sqrd r => Sys2Proof.Machine.execSqrd r s
  | .sqrq r => Sys2Proof.Machine.execSqrq r s
  | .qbrm r => Sys2Proof.Machine.execQbrm r s
  | .qbr r => Sys2Proof.Machine.execQbr r s
  | .qbrd r => Sys2Proof.Machine.execQbrd r s
  | .qbrq r => Sys2Proof.Machine.execQbrq r s
  | .logm r => Sys2Proof.Machine.execLogm r s
  | .log r => Sys2Proof.Machine.execLog r s
  | .logd r => Sys2Proof.Machine.execLogd r s
  | .logq r => Sys2Proof.Machine.execLogq r s
  | .expm r => Sys2Proof.Machine.execExpm r s
  | .exp r => Sys2Proof.Machine.execExp r s
  | .expd r => Sys2Proof.Machine.execExpd r s
  | .expq r => Sys2Proof.Machine.execExpq r s
  | .clrq r => Sys2Proof.Machine.execClrq r s
  | .absq r => Sys2Proof.Machine.execAbsq r s
  | .sgnq r => Sys2Proof.Machine.execSgnq r s
  | .negq r => Sys2Proof.Machine.execNegq r s

end Sys2Proof.Machine
end

