-- ==== Sys2Proof/Machine/Fetch.lean ====
section
/-! DEFINITION. Instruction fetch (20_memory.md R53), and placing a word of the opcode table where the next
step fetches. -/

namespace Sys2Proof.Machine

/-- What a fetch finds at `pc`: the halfwords read and what they decode to. -/
structure Fetched where
  first : Half
  second : Option Half
  decoded : Decoded
  deriving DecidableEq, Repr

/-- Fetch and decode at `pc`: the second halfword is read only where R98 names it (20_memory.md R53). -/
def fetch (s : State) : Except Fault Fetched := do
  let h ← memRead s s.pc.toNat 2
  let first := BitVec.ofNat 16 h
  if needsSecond s.params.mode first then do
    let e ← memRead s (s.pc.toNat + 2) 2
    let second := BitVec.ofNat 16 e
    .ok { first := first, second := some second, decoded := decode s.params.esLayout s.params.mode first second }
  else .ok { first := first, second := none, decoded := decode s.params.esLayout s.params.mode first 0 }

/-- The state with a table word's bytes at `pc`, read in the mode whose row it is and under
the table's `ES_LAYOUT`, and the run not ended: all
that the next step needs in order to run exactly it (log entry 8). -/
def placeFetchWord (s : State) (nbits w : Nat) : State :=
  { s with
    mem := s.mem.writeBytes s.pc.toNat (tableWordBytes nbits w)
    params := { s.params with mode := tableWordMode s.params.mode nbits w, esLayout := defaultEsLayout }
    finished := false }

end Sys2Proof.Machine
end

