-- ==== Sys2Proof/Machine/Step.lean ====
section
/-! DEFINITION. One step of the machine (60_exceptions.md R401, R405; 70_reset_and_hazards.md R436). -/

namespace Sys2Proof.Machine

/-- The state after a completed step, with the run ended if `pc` is `END_PC` (R436). -/
def State.noteEnd (s : State) : State :=
  { s with finished := decide (s.params.endPc = some s.pc) }

/-- One step: a run that has ended takes none; Compact Mode is refused (30_encoding.md R113); else fetch,
decode, and the decoded instruction's meaning. -/
def step (s : State) : Host.Outcome State Fault Refusal :=
  if s.finished then .fault .finished
  else if s.params.mode = .compact then .refused (.unsupportedMode s.params.mode)
  else
    match fetch s with
    | .error e => .fault e
    | .ok w =>
      match w.decoded with
      | .unlisted => .refused (.unlistedEncoding w.first w.second)
      | .reserved => .refused (.reservedEncoding w.first w.second)
      | .instr i =>
        match exec i s with
        | .next t => .next t.noteEnd
        | .fault e => .fault e
        | .refused e => .refused e

/-- The state with an instruction of the opcode table stored where the next step fetches. -/
def State.withFetchWord (s : State) (nbits w : Nat) : State := placeFetchWord s nbits w

end Sys2Proof.Machine
end

