-- ==== Sys2Proof/Machine/Launch.lean ====
section
/-! DEFINITION. The launch that stands in for reset (70_reset_and_hazards.md R430 to R436): its arguments, the
state it starts a run from, and which arguments are valid. -/

namespace Sys2Proof.Machine

/-- The launch arguments of R433. `FpFunc`, `FSign`, the type-Q constants and the draws are the free values of
`Config`. A register or status field the harness does not set keeps the value of `State.reset` (log entry 1). -/
structure Launch where
  /-- `ADDR_BYTES`, `MODE`, `FLAGS_UNSTATED`, `NARROW_UPPER`, `ES_LAYOUT`, `END_PC` and `TEXT` -/
  params : Params := resetParams
  /-- `ENTRY_PC` (R431) -/
  entryPc : Addr := 0
  /-- the launch image, a partial map from addresses to bytes (R432) -/
  image : Memory := []
  /-- the initial arithmetic/index registers -/
  x : RegFile 32 := State.reset.x
  /-- the initial base registers -/
  b : RegFile 64 := State.reset.b
  /-- the initial floating-point registers -/
  f : RegFile 128 := State.reset.f
  /-- the initial scratchpad base registers -/
  sb : RegFile 64 := State.reset.sb
  /-- the initial pointer scratchpad base registers -/
  psb : RegFile 64 := State.reset.psb
  /-- the initial array scratchpad base registers -/
  asb : RegFile 64 := State.reset.asb
  /-- the initial status word -/
  sw : Status := State.reset.sw
  /-- the initial saved condition codes; no instruction writes them (10_state.md R32) -/
  ssw : Status := State.reset.ssw

/-- The state a launch starts from (R433, R434). The run ends after a completed step, so it has not ended
yet even where `ENTRY_PC` is `END_PC` (R436). -/
def Launch.start (l : Launch) : State :=
  { x := l.x, b := l.b, f := l.f, sb := l.sb, psb := l.psb, asb := l.asb, pc := l.entryPc, sw := l.sw,
    ssw := l.ssw, mem := l.image, params := l.params, draws := 0, finished := false }

/-- Every value of a file fits the address space. -/
def fileFits (limit : Nat) (file : RegFile 64) : Bool := file.toList.all fun v => decide (v.toNat < limit)

/-- Every byte of a run is in the image. -/
def rangeMapped (image : Memory) (t : TextRange) : Bool :=
  (List.range t.size).all fun k => (image.read (t.base + k)).isSome

/-- Arguments a launch accepts: `ENTRY_PC` even and inside `TEXT` (R431), an image in canonical form within the
address space and holding every byte of `TEXT` (R432), an even `END_PC` (R436), an `ES_LAYOUT` that fits its
format (log entry 12), address registers within the address space (00_scope.md R6). -/
def Launch.valid (l : Launch) : Bool :=
  let limit := l.start.addrLimit
  !l.entryPc.getLsbD 0 && inText l.params l.entryPc.toNat && decide (l.entryPc.toNat < limit) &&
    l.image.wf && l.image.all (fun c => decide (c.1 < limit)) && l.params.text.all (rangeMapped l.image) &&
    (match l.params.endPc with
      | none => true
      | some e => !e.getLsbD 0 && decide (e.toNat < limit)) &&
    l.params.esLayout.valid && fileFits limit l.b && fileFits limit l.sb && fileFits limit l.psb && fileFits limit l.asb

end Sys2Proof.Machine
end

