-- ==== Sys2Proof/Safety.lean ====
section
/-! DEFINITION. What a sound state is, the results of a run, and the vocabulary of the claims: what memory
holds, what an instruction stores, what it may do to flags and to the bits of a register above an operand. -/

namespace Sys2Proof.Machine

/-! ### The invariant -/

/-- A register file of addresses holds addresses only (00_scope.md R6, 10_state.md R25, R28). -/
def FileFits (limit : Nat) (file : RegFile 64) : Prop := ∀ r : RegNum, (file.read r).toNat < limit

/-- What every state of a run satisfies: memory in canonical form and within the address space (20_memory.md
R50), `pc` even and within it (10_state.md R29), and the four files of address registers within it. -/
structure State.Sound (s : State) : Prop where
  memoryCanonical : s.mem.wf = true
  memoryFits : ∀ c ∈ s.mem, c.1 < s.addrLimit
  pcEven : s.pc.getLsbD 0 = false
  pcFits : s.pc.toNat < s.addrLimit
  baseFits : FileFits s.addrLimit s.b
  scratchpadFits : FileFits s.addrLimit s.sb
  pointerScratchpadFits : FileFits s.addrLimit s.psb
  arrayScratchpadFits : FileFits s.addrLimit s.asb

/-! ### The results of a run -/

/-- The possible results of a run (70_reset_and_hazards.md R437). -/
inductive RunResult where
  /-- the run reached `END_PC` (R436) -/
  | finished (s : State)
  /-- a step refused: the model has no meaning there (60_exceptions.md R401), at the recorded `pc` -/
  | stopped (why : Fault ⊕ Refusal) (pc : Addr)
  /-- the step budget is used up; not an outcome of the machine -/
  | outOfFuel (s : State)
  deriving DecidableEq, Repr

/-- A run of at most `fuel` steps (R437). -/
def run : Nat → State → RunResult
  | 0, s => .outOfFuel s
  | fuel + 1, s =>
    match step s with
    | .next t => if t.finished then .finished t else run fuel t
    | .fault e => .stopped (.inl e) s.pc
    | .refused e => .stopped (.inr e) s.pc

/-! ### What memory holds -/

/-- The `n` bytes from `a` on hold the number `v`, the most significant byte first (20_memory.md R51). -/
def Holds (m : Memory) (a n v : Nat) : Prop :=
  v < 256 ^ n ∧ ∀ k, k < n → m.read (a + k) = some (BitVec.ofNat 8 (v / 256 ^ (n - 1 - k)))

/-- Each of the `n` bytes from `a` on has been supplied (60_exceptions.md R404). -/
def Mapped (m : Memory) (a n : Nat) : Prop := ∀ k, k < n → (m.read (a + k)).isSome = true

/-- None of the `n` bytes from `a` on is program text (20_memory.md R66). -/
def ClearOfText (s : State) (a n : Nat) : Prop := ∀ k, k < n → inText s.params (a + k) = false

/-- Every byte outside the `n` bytes from `a` on reads in `m'` as in `m`. -/
def SameOutside (m m' : Memory) (a n : Nat) : Prop := ∀ k, k < a ∨ a + n ≤ k → m'.read k = m.read k

/-- `m'` is `m` with the `n`-byte number `v` stored at `a` (20_memory.md R52) and every other byte as it was. -/
def Stored (m m' : Memory) (a n v : Nat) : Prop := Holds m' a n v ∧ SameOutside m m' a n

/-- A load of the `n` bytes from `a` on stops with `why`: it passes the end of the address space (20_memory.md R54),
or a byte of it was never supplied (60_exceptions.md R404), the first such byte being named. -/
def LoadStops (s : State) (a n : Nat) (why : Fault) : Prop :=
  (s.addrLimit < a + n ∧ why = .addressWrap a) ∨
    (a + n ≤ s.addrLimit ∧ ∃ k, k < n ∧ Mapped s.mem a k ∧ s.mem.read (a + k) = none ∧ why = .unmappedAccess (a + k))

/-- A store to the `n` bytes from `a` on stops with `why`: it passes the end of the address space (20_memory.md R54),
or a byte of it is program text (R66), the first such byte being named. -/
def StoreStops (s : State) (a n : Nat) (why : Fault) : Prop :=
  (s.addrLimit < a + n ∧ why = .addressWrap a) ∨
    (a + n ≤ s.addrLimit ∧
      ∃ k, k < n ∧ ClearOfText s a k ∧ inText s.params (a + k) = true ∧ why = .storeToText (a + k))

/-! ### Ranges of registers in memory -/

/-- Each of `count` elements of `e` bytes can be loaded, element `j` from `a + j * e` modulo `2^ADDR_BITS`
(40_multiple_register.md R133, 00_scope.md R15): it lies within the address space and is supplied. -/
def RangeMapped (s : State) (a e count : Nat) : Prop :=
  ∀ j, j < count → s.wrapAddr (a + j * e) + e ≤ s.addrLimit ∧ Mapped s.mem (s.wrapAddr (a + j * e)) e

/-- Each of `count` elements of `e` bytes can be stored, element `j` at `a + j * e` modulo `2^ADDR_BITS`: it lies
within the address space and outside the program text. -/
def RangeClear (s : State) (a e count : Nat) : Prop :=
  ∀ j, j < count → s.wrapAddr (a + j * e) + e ≤ s.addrLimit ∧ ClearOfText s (s.wrapAddr (a + j * e)) e

/-- Loads of `count` elements of `e` bytes from `a` on, made one after another, stop with `why` at the first that
cannot be made. -/
def RangeLoadStops (s : State) (a e count : Nat) (why : Fault) : Prop :=
  ∃ j, j < count ∧ RangeMapped s a e j ∧ LoadStops s (s.wrapAddr (a + j * e)) e why

/-- Stores of `count` elements of `e` bytes from `a` on, made one after another, stop with `why` at the first that
cannot be made. -/
def RangeStoreStops (s : State) (a e count : Nat) (why : Fault) : Prop :=
  ∃ j, j < count ∧ RangeClear s a e j ∧ StoreStops s (s.wrapAddr (a + j * e)) e why

/-- Every byte outside the `count` elements of `e` bytes from `a` on reads in `m` as in the memory of `s`. -/
def SameOutsideRange (s : State) (m : Memory) (a e count : Nat) : Prop :=
  ∀ k, (∀ j, j < count → k < s.wrapAddr (a + j * e) ∨ s.wrapAddr (a + j * e) + e ≤ k) → m.read k = s.mem.read k

/-- After a load, in `s`, of the registers `r1` to `r2` of a file from `ea` on, each `e` bytes wide, each holds what
memory holds at its place, and the others are as they were (40_multiple_register.md R131, R133). -/
def RangeLoaded {w : Nat} (s : State) (ea e : Nat) (r1 r2 : RegNum) (old new : RegFile w) : Prop :=
  (∀ q : RegNum, r1 ≤ q → q ≤ r2 →
    Holds s.mem (s.wrapAddr (ea + (q.toNat - r1.toNat) * e)) e (new.read q).toNat) ∧
    (∀ q : RegNum, q < r1 ∨ r2 < q → new.read q = old.read q)

/-- After a store, in `s`, of the registers `r1` to `r2` of a file from `ea` on, each `e` bytes wide, the memory `m`
holds each at its place, and every other byte is as it was (40_multiple_register.md R131, R133). -/
def RangeStored {w : Nat} (s : State) (m : Memory) (ea e : Nat) (r1 r2 : RegNum) (file : RegFile w) : Prop :=
  (∀ q : RegNum, r1 ≤ q → q ≤ r2 →
    Holds m (s.wrapAddr (ea + (q.toNat - r1.toNat) * e)) e (file.read q).toNat) ∧
    SameOutsideRange s m ea e (rangeCount r1 r2)

/-! ### Flags and undetermined bits -/

/-- What `t`'s status word may be after an instruction run in `s` that states the given fields: a stated field
has its value; an unstated one is as it was under `preserve`, and anything under `havoc` (10_state.md R33). -/
def FlagsAfter (s t : State) (c v : Option Bool) (r : Option Sign) : Prop :=
  (∀ z, c = some z → t.sw.c = z) ∧ (∀ z, v = some z → t.sw.v = z) ∧ (∀ z, r = some z → t.sw.r = z) ∧
    (s.params.flagsUnstated = .preserve →
      (c = none → t.sw.c = s.sw.c) ∧ (v = none → t.sw.v = s.sw.v) ∧ (r = none → t.sw.r = s.sw.r))

/-- `new` holds the narrow operand `v` in its low bits; above them it is `old` under `unchanged`, and anything
under `havoc` (43_shifts.md R233). -/
def NarrowAfter {w : Nat} (s : State) (old new : Word) (v : BitVec w) : Prop :=
  new.setWidth w = v ∧
    (s.params.narrowUpper = .unchanged → ∀ i, w ≤ i → new.getLsbD i = old.getLsbD i)

/-! ### Jump targets -/

/-- A jump of operands `rX`, `rB`, `addr` goes to `t` (41_jumps.md R161, R162): the effective address where
`rX` is zero, else the address that memory holds at the indexed effective address. -/
def JumpsTo (s : State) (rX rB : RegNum) (addr : Half) (t : Addr) : Prop :=
  (rX = 0 ∧ t = ea0 rB addr s) ∨
    (rX ≠ 0 ∧ (ea1 rX rB addr s).toNat + s.addrBytes ≤ s.addrLimit ∧
      Holds s.mem (ea1 rX rB addr s).toNat s.addrBytes t.toNat)

/-! ### Signs -/

/-- The sign of a stored two's complement value (45_single_operand.md R302). -/
def signFormula {w : Nat} (v : BitVec w) : Sign :=
  if v.toInt < 0 then .neg else if v.toInt = 0 then .zero else .pos

/-! ### Shifts -/

/-- The `w + 1` bits of a rotate through carry, the carry leftmost (43_shifts.md R234): bit `i` of `c ++ v`. -/
def carryBit {w : Nat} (c : Bool) (v : BitVec w) (i : Nat) : Bool := if i = w then c else v.getLsbD i

/-- The result `v'` of a shift of a `w`-bit operand `v` by `n < w` with carry-in `c`, and the carry it states,
as the formulas of 43_shifts.md R234 say. -/
def ShiftFormula {w : Nat} (op : ShiftOp) (n : Nat) (c : Bool) (v v' : BitVec w) (c' : Option Bool) : Prop :=
  match op with
  | .shl => v'.toNat = v.toNat * 2 ^ n % 2 ^ w ∧ c' = none
  | .shr => v'.toNat = v.toNat / 2 ^ n ∧ c' = none
  | .asr => v'.toInt = v.toInt / (2 : Int) ^ n ∧ c' = none
  | .rol => v'.toNat = v.toNat * 2 ^ n % 2 ^ w + v.toNat / 2 ^ (w - n) ∧ c' = none
  | .ror => v'.toNat = v.toNat / 2 ^ n + v.toNat * 2 ^ (w - n) % 2 ^ w ∧ c' = none
  | .rlc =>
    (∀ i, i < w → v'.getLsbD i = carryBit c v ((i + (w + 1) - n) % (w + 1))) ∧
      c' = some (carryBit c v (w - n))
  | .rrc =>
    (∀ i, i < w → v'.getLsbD i = carryBit c v ((i + n) % (w + 1))) ∧
      c' = some (carryBit c v ((w + n) % (w + 1)))

/-- The number of leading zeros of a nonzero `v` is `k`: the shift by `k` has its first bit set, and no
smaller shift has (45_single_operand.md R312). -/
def NormalizedBy {w : Nat} (v : BitVec w) (k : Nat) : Prop :=
  (v <<< k).msb = true ∧ ∀ j, j < k → (v <<< j).msb = false

end Sys2Proof.Machine
end

