-- ==== Sys2Proof/Certificates/Slice0/Obligations.lean ====
section
/-! DEFINITION. The statements about this model, for the provers. An effect is written as the whole next state:
a record update names every field that may differ, so every other field, and where `mem` is not named every
byte of memory, is as it was. A flag, a draw or an upper bit that the spec leaves open is said by `FlagsAfter`
and `NarrowAfter`, which hold for every value the free ones may have. -/

open Sys2Proof Sys2Proof.Machine

/-- For every mode m, every layout of ES32 that fits its format, every instruction i that is well formed in m and any
bytes that follow, the byte decoder reads from the bytes of the encoded i exactly i and leaves the bytes that
follow. Every operand runs over every value its field admits. Which layouts fit is log entry 12; that Simple and
Local Mode carry the Normal Mode fields over is log entry 13. Rests on 30_encoding.md sections 2 to 6 (formats);
30_encoding.md section 8 (decode procedure); 30_encoding.md section 10 (Simple and Local Mode);
42_extensible_shift.md section 1 (ES_LAYOUT; decision D20). -/
def Obligations.EncodedInstructionsDecodeToThemselves : Prop :=
  ∀ (lay : EsLayout) (m : Mode) (i : Instr) (rest : List Byte), lay.valid = true → i.wellFormed m = true →
    decodeBytes lay m ((encode lay m i).flatMap (fun h => [h.highByte, h.lowByte]) ++ rest) = some (.instr i, rest)

/-- If the halfwords h, s decode to i in mode m under a valid ES_LAYOUT, then i is well formed in m, a second
halfword is read exactly when i is 4 bytes long, and the encoder gives back the halfwords read; only for a
conditional or unconditional long branch and LBRS is the digit h[5:3], which the format ignores, given back as
zero, and for ESL and ESR any bit of s that the layout gives to no field (under the default layout such a bit is
zero already). Which layouts fit is log entry 12; Simple and Local Mode are log entry 13. Rests on 30_encoding.md
sections 2 to 6 (formats, R88 for the ignored digit); 30_encoding.md section 8 (decode procedure); 30_encoding.md
section 10 (Simple and Local Mode); 42_extensible_shift.md section 1 (ES_LAYOUT; decision D20). -/
def Obligations.DecodedHalfwordsEncodeBack : Prop :=
  ∀ (lay : EsLayout) (m : Mode) (h s : Half) (i : Instr), lay.valid = true → decode lay m h s = .instr i →
    i.wellFormed m = true ∧ (needsSecond m h = true ↔ i.length = 4) ∧
      encode lay m i =
        if i.length = 2 then [h]
        else if digit0 h = 0#3 ∧ (opRest h = 8#4 ∨ opRest h = 9#4 ∨ opRest h = 12#4) then [h &&& 0xFFC7#16, s]
        else if digit0 h = 0#3 ∧ (opRest h = 0#4 ∨ opRest h = 1#4) then [h, s &&& lay.fieldBits]
        else [h, s]

/-- Fourteen example words that the spec prints, at least one from each family, decode to the instructions and
operands it names beside them; one word of Simple and one of Local Mode, formed here from the Normal Mode word by
the prefixes of the spec, decode to theirs; a reserved and an unlisted word decode to none. In which mode a word
of the table is read is the model's choice (log entry 8), and so is the carrying over of the fields (log entry
13). Rests on 40_multiple_register.md sections 2 to 4; 41_jumps.md sections 2 to 6; 42_extensible_shift.md
section 2; 43_shifts.md section 4; 44_branch_return.md sections 1 and 2; 45_single_operand.md sections 1 and 2;
46_math_functions.md sections 2 and 3; 30_encoding.md section 8 (decode procedure); 30_encoding.md section 10
(Simple and Local Mode); 30_encoding.md section 11 (reserved and unlisted). -/
def Obligations.WordsOfTheSpecDecode : Prop :=
  decodeTableWord 32 0xE4A30011 = some (.lmu 2 4 3 0x10#16) ∧
    decodeTableWord 16 0xE658 = some (.stmuPush 1 3) ∧
    decodeTableWord 32 0xF5610009 = some (.sspsb 4 1 0x8#16) ∧
    decodeTableWord 32 0xE0830100 = some (.jms 2 0 3 0x100#16) ∧
    decodeTableWord 32 0xF1130040 = some (.jh 2 3 0x40#16) ∧
    decodeTableWord 32 0xF450FFFC = some (.lbxh 1 2 0xFFFC#16) ∧
    decodeTableWord 32 0xE0A80610 = some (.esl 2 5 0b0011#4 8#6) ∧
    decodeTableWord 16 0x30B3 = some (.shlb 2 3#3) ∧
    decodeTableWord 16 0x83E8 = some (.bl 0b111101#6) ∧
    decodeTableWord 16 0x9E00 = some .rss ∧
    decodeTableWord 16 0x249C = some (.neg 4) ∧
    decodeTableWord 16 0x251C = some (.nb 3 4) ∧
    decodeTableWord 16 0xA018 = some (.sinm 3) ∧
    decodeTableWord 16 0xBD98 = some (.sgnq 3) ∧
    decodeTableWord 32 0x04A30010 = some (.lmu 2 4 3 0x10#16) ∧
    decodeTableWord 32 0x50830040 = some (.je 0 3 0x40#16) ∧
    decodeTableWord 32 0xE4A30013 = none ∧
    decodeTableWord 16 0x8000 = none

/-- In a run that has not ended, in a mode other than Compact, if the bytes from pc on decode to i with none left
over and lie within the address space, then step is exec of i: a next state with finished set exactly when pc is
END_PC, or the same fault or refusal. The finished mark and its test are the model's form of END_PC (log entry
9). Rests on 20_memory.md section 1 (fetch); 60_exceptions.md section 1; 70_reset_and_hazards.md section 2. -/
def Obligations.StepRunsTheDecodedInstruction : Prop :=
  ∀ (s : State) (i : Instr) (bytes : List Byte), s.finished = false → s.params.mode ≠ .compact →
    decodeBytes s.params.esLayout s.params.mode bytes = some (.instr i, []) →
    (∀ k, k < bytes.length → s.mem.read (s.pc.toNat + k) = bytes[k]?) →
    s.pc.toNat + bytes.length ≤ s.addrLimit →
    step s =
      match exec i s with
      | .next t => .next { t with finished := decide (t.params.endPc = some t.pc) }
      | .fault e => .fault e
      | .refused e => .refused e

/-- A step from a state whose run has ended answers the fault finished; in Compact Mode, the refusal unsupportedMode;
where the byte at pc was never supplied, the fault unmappedAccess with that address; where the fetched halfwords
decode to nothing, unlistedEncoding or reservedEncoding with the halfwords. That these end the run is the spec's
decision D27 and the fault finished is the model's (log entries 9, 10). Rests on 30_encoding.md section 8 (decode
procedure); 30_encoding.md section 10 (Compact Mode); 30_encoding.md section 11 (reserved and unlisted);
60_exceptions.md section 1; 70_reset_and_hazards.md section 2. -/
def Obligations.StepStopsWhereNothingCanRun : Prop :=
  (∀ s : State, s.finished = true → step s = .fault .finished) ∧
    (∀ s : State, s.finished = false → s.params.mode = .compact →
      step s = .refused (.unsupportedMode .compact)) ∧
    (∀ s : State, s.finished = false → s.params.mode ≠ .compact → s.pc.toNat + 2 ≤ s.addrLimit →
      s.mem.read s.pc.toNat = none → step s = .fault (.unmappedAccess s.pc.toNat)) ∧
    (∀ (s : State) (h : Half), s.finished = false → s.params.mode ≠ .compact →
      s.pc.toNat + 2 ≤ s.addrLimit → Holds s.mem s.pc.toNat 2 h.toNat →
      needsSecond s.params.mode h = false →
      (decode s.params.esLayout s.params.mode h 0 = .unlisted → step s = .refused (.unlistedEncoding h none)) ∧
        (decode s.params.esLayout s.params.mode h 0 = .reserved → step s = .refused (.reservedEncoding h none))) ∧
    (∀ (s : State) (h e : Half), s.finished = false → s.params.mode ≠ .compact →
      s.pc.toNat + 4 ≤ s.addrLimit → Holds s.mem s.pc.toNat 2 h.toNat →
      needsSecond s.params.mode h = true → Holds s.mem (s.pc.toNat + 2) 2 e.toNat →
      (decode s.params.esLayout s.params.mode h e = .unlisted → step s = .refused (.unlistedEncoding h (some e))) ∧
        (decode s.params.esLayout s.params.mode h e = .reserved → step s = .refused (.reservedEncoding h (some e))))

/-- From every sound state (memory canonical and within the address space, pc even and within it, every base and
scratchpad register within it), whatever instruction stands there, a step that answers a next state answers a
sound one. Rests on 10_state.md sections 3 to 5; 20_memory.md sections 1 and 3. -/
def Obligations.StepKeepsStatesSound : Prop :=
  ∀ s t : State, s.Sound → step s = .next t → t.Sound

/-- The state after reset satisfies the invariant. The source gives no reset value: the zeros, the zero pc and the
empty memory are the model's choice (log entries 1, 2, 5). Rests on 10_state.md section 1;
70_reset_and_hazards.md section 1. -/
def Obligations.ResetStateIsSound : Prop := State.reset.Sound

/-- If the launch arguments are ones the spec admits (even entry inside the program text, an image within the address
space that holds the text, an even END_PC, address registers in range), the state the run starts from satisfies
the invariant. That the image is canonical and the registers in range is the model's reading (log entries 6, 22).
Rests on 70_reset_and_hazards.md section 1. -/
def Obligations.ValidLaunchesStartSound : Prop :=
  ∀ l : Launch, l.valid = true → l.start.Sound

/-- Whatever the instruction, a step that answers a next state leaves the launch parameters (addressing width, mode,
policies, END_PC, program text) and the saved copy of the condition codes as they were. Rests on 10_state.md
sections 6 and 8; 00_scope.md section 3. -/
def Obligations.StepKeepsParametersAndSavedStatus : Prop :=
  ∀ s t : State, step s = .next t → t.params = s.params ∧ t.ssw = s.ssw

/-- Whatever the instruction, a step that answers a next state leaves every byte of the program text as it was (a
store into it is refused, the spec's decision D28), and every address that held a byte still holds one. Rests on
20_memory.md section 5 (program text); 60_exceptions.md section 1; 70_reset_and_hazards.md section 3. -/
def Obligations.StepKeepsProgramTextAndSuppliedBytes : Prop :=
  ∀ (s t : State) (a : Nat), step s = .next t →
    (inText s.params a = true → t.mem.read a = s.mem.read a) ∧
      ((s.mem.read a).isSome = true → (t.mem.read a).isSome = true)

/-- If an instruction answers a next state whose memory differs, it is STMU, STMUBR, STMUQ, one of their stack forms,
SSTBR, SSSB, SSPSB, SSASB, or JMS or LBRS with rR zero. Rests on 20_memory.md section 2 (the table of accesses). -/
def Obligations.OnlyStoresChangeMemory : Prop :=
  ∀ (i : Instr) (s t : State), exec i s = .next t → t.mem ≠ s.mem →
    (∃ r1 r2 rB addr, i = .stmu r1 r2 rB addr ∨ i = .stmubr r1 r2 rB addr ∨ i = .stmuq r1 r2 rB addr) ∨
      (∃ r1 r2, i = .stmuPush r1 r2 ∨ i = .stmubrPush r1 r2 ∨ i = .stmuqPush r1 r2) ∨
      (∃ r rB addr, i = .sstbr r rB addr ∨ i = .sssb r rB addr ∨ i = .sspsb r rB addr ∨ i = .ssasb r rB addr) ∨
      (∃ rX rB addr, i = .jms 0 rX rB addr) ∨ (∃ disp, i = .lbrs 0 disp)

/-- If an instruction answers a next state in which a register of the scratchpad, pointer scratchpad or array
scratchpad base file differs, the instruction is SLSB, SLPSB or SLASB respectively, of that register. Rests on
10_state.md section 4; 40_multiple_register.md section 4. -/
def Obligations.OnlyTheirLoadsChangeScratchpads : Prop :=
  ∀ (i : Instr) (s t : State) (r : RegNum), exec i s = .next t →
    (t.sb.read r ≠ s.sb.read r → ∃ rB addr, i = .slsb r rB addr) ∧
      (t.psb.read r ≠ s.psb.read r → ∃ rB addr, i = .slpsb r rB addr) ∧
      (t.asb.read r ≠ s.asb.read r → ∃ rB addr, i = .slasb r rB addr)

/-- Whatever the start and the step budget, a run whose result is finished ends in a state whose pc is the launch's
END_PC. END_PC is the spec's decision D29. Rests on 70_reset_and_hazards.md section 2. -/
def Obligations.FinishedRunsEndAtEndPc : Prop :=
  ∀ (fuel : Nat) (s t : State), run fuel s = .finished t → s.params.endPc = some t.pc ∧ t.params = s.params

/-- The eleven conditions hold of a status word exactly as the table says (the six comparisons and No Overflow only
without overflow; Carry and No Carry on the carry alone, the spec's decision D11); the codes are those of the
table; opcode 100 to 117 with one of the five codes it skips is unlisted (decision D12). Rests on 10_state.md
section 6 (the condition table; decisions D11, D12). -/
def Obligations.ConditionTable : Prop :=
  (∀ w : Status,
    (condHolds .low w = true ↔ w.v = false ∧ w.r = .neg) ∧
      (condHolds .equal w = true ↔ w.v = false ∧ w.r = .zero) ∧
      (condHolds .lowOrEqual w = true ↔ w.v = false ∧ w.r ≠ .pos) ∧
      (condHolds .high w = true ↔ w.v = false ∧ w.r = .pos) ∧
      (condHolds .notEqual w = true ↔ w.v = false ∧ w.r ≠ .zero) ∧
      (condHolds .highOrEqual w = true ↔ w.v = false ∧ w.r ≠ .neg) ∧
      (condHolds .noOverflow w = true ↔ w.v = false) ∧
      (condHolds .overflow w = true ↔ w.v = true) ∧
      (condHolds .carry w = true ↔ w.c = true) ∧
      (condHolds .noCarry w = true ↔ w.c = false) ∧
      condHolds .always w = true) ∧
    (condOfCode 0o1#4 = some .low ∧ condOfCode 0o2#4 = some .equal ∧ condOfCode 0o3#4 = some .lowOrEqual ∧
      condOfCode 0o4#4 = some .high ∧ condOfCode 0o5#4 = some .notEqual ∧ condOfCode 0o6#4 = some .highOrEqual ∧
      condOfCode 0o7#4 = some .noOverflow ∧ condOfCode 0o10#4 = some .overflow ∧
      condOfCode 0o12#4 = some .carry ∧ condOfCode 0o13#4 = some .noCarry ∧ condOfCode 0o17#4 = some .always) ∧
    (∀ c ∈ ([0o0#4, 0o11#4, 0o14#4, 0o15#4, 0o16#4] : List (BitVec 4)), ∀ (lay : EsLayout) (f2 f1 : BitVec 3) (s : Half),
      condOfCode c = none ∧ decode lay .normal (firstHalf 0b100#3 c f2 f1 0#3) s = .unlisted)

/-- For every state and operands, EA0 is the base register plus the address field read as unsigned, modulo the size
of the address space, and EA1 is the same sum plus the index register read as signed, modulo it (unsigned field
and signed index: the spec's decision D15). Rests on 20_memory.md section 4 (effective address; decision D15). -/
def Obligations.EffectiveAddressArithmetic : Prop :=
  ∀ (rX rB : RegNum) (addr : Half) (s : State),
    (ea0 rB addr s).toNat = ((s.b.read rB).toNat + addr.toNat) % s.addrLimit ∧
      ((ea1 rX rB addr s).toNat : Int) =
        (((s.b.read rB).toNat : Int) + addr.toNat + (s.x.read rX).toInt) % s.addrLimit

/-- For an n-byte value v, a store at a completes exactly when its bytes lie within the address space and outside the
program text; then only memory changes, each byte of the store is the big-endian byte of v, a read of n bytes at
a gives v, and every other byte reads as before. Big-endian is the spec's decision D5. Rests on 20_memory.md
section 1 (the memory primitives; decisions D5, D28). -/
def Obligations.StoredValueReadsBack : Prop :=
  ∀ (s : State) (a n v : Nat), v < 256 ^ n →
    (((∃ t, memWrite s a n v = .ok t) ↔ a + n ≤ s.addrLimit ∧ ClearOfText s a n) ∧
      ∀ t, memWrite s a n v = .ok t →
        t = { s with mem := t.mem } ∧ Stored s.mem t.mem a n v ∧ memRead t a n = .ok v)

/-- With an ascending range, each element supplied and within the address space, and room for pc, each of the three
completes: register r1 + i holds the E bytes at EA0 + i * E modulo 2^ADDR_BITS (a range may go on at address 0),
EA0 being of the state before (so an LMUBR that loads its own base is included); the other registers of the file,
every other file, the flags and all of memory are as before; pc advances by 4. Rests on 40_multiple_register.md
sections 1 and 2 (decisions D13, D17); 00_scope.md section 4 (modular address arithmetic); 20_memory.md section 1
(decision D28). -/
def Obligations.LoadMultipleFromMemory : Prop :=
  (∀ (r1 r2 rB : RegNum) (addr : Half) (s : State), r1 ≤ r2 → s.pc.toNat + 4 < s.addrLimit →
      RangeMapped s (ea0 rB addr s).toNat 4 (rangeCount r1 r2) →
      ∃ t, exec (.lmu r1 r2 rB addr) s = .next t ∧ t = { s with x := t.x, pc := s.pc + 4 } ∧
        RangeLoaded s (ea0 rB addr s).toNat 4 r1 r2 s.x t.x) ∧
    (∀ (r1 r2 rB : RegNum) (addr : Half) (s : State), r1 ≤ r2 → s.pc.toNat + 4 < s.addrLimit →
      RangeMapped s (ea0 rB addr s).toNat s.addrBytes (rangeCount r1 r2) →
      ∃ t, exec (.lmubr r1 r2 rB addr) s = .next t ∧ t = { s with b := t.b, pc := s.pc + 4 } ∧
        RangeLoaded s (ea0 rB addr s).toNat s.addrBytes r1 r2 s.b t.b) ∧
    (∀ (r1 r2 rB : RegNum) (addr : Half) (s : State), r1 ≤ r2 → s.pc.toNat + 4 < s.addrLimit →
      RangeMapped s (ea0 rB addr s).toNat 16 (rangeCount r1 r2) →
      ∃ t, exec (.lmuq r1 r2 rB addr) s = .next t ∧ t = { s with f := t.f, pc := s.pc + 4 } ∧
        RangeLoaded s (ea0 rB addr s).toNat 16 r1 r2 s.f t.f)

/-- With an ascending range, each element within the address space and outside the program text, and room for pc,
each of the three completes: the E bytes at EA0 + i * E modulo 2^ADDR_BITS (a range may go on at address 0) hold
register r1 + i, every byte outside these elements is as before, no register and no flag changes, and pc advances
by 4. For base registers the premise that each fits the address space is part of the invariant. Rests on
40_multiple_register.md sections 1 and 2 (decisions D13, D17); 00_scope.md section 4 (modular address
arithmetic); 20_memory.md section 1 (decision D28). -/
def Obligations.StoreMultipleToMemory : Prop :=
  (∀ (r1 r2 rB : RegNum) (addr : Half) (s : State), r1 ≤ r2 → s.pc.toNat + 4 < s.addrLimit →
      RangeClear s (ea0 rB addr s).toNat 4 (rangeCount r1 r2) →
      ∃ t, exec (.stmu r1 r2 rB addr) s = .next t ∧ t = { s with mem := t.mem, pc := s.pc + 4 } ∧
        RangeStored s t.mem (ea0 rB addr s).toNat 4 r1 r2 s.x) ∧
    (∀ (r1 r2 rB : RegNum) (addr : Half) (s : State), FileFits s.addrLimit s.b → r1 ≤ r2 → s.pc.toNat + 4 < s.addrLimit →
      RangeClear s (ea0 rB addr s).toNat s.addrBytes (rangeCount r1 r2) →
      ∃ t, exec (.stmubr r1 r2 rB addr) s = .next t ∧ t = { s with mem := t.mem, pc := s.pc + 4 } ∧
        RangeStored s t.mem (ea0 rB addr s).toNat s.addrBytes r1 r2 s.b) ∧
    (∀ (r1 r2 rB : RegNum) (addr : Half) (s : State), r1 ≤ r2 → s.pc.toNat + 4 < s.addrLimit →
      RangeClear s (ea0 rB addr s).toNat 16 (rangeCount r1 r2) →
      ∃ t, exec (.stmuq r1 r2 rB addr) s = .next t ∧ t = { s with mem := t.mem, pc := s.pc + 4 } ∧
        RangeStored s t.mem (ea0 rB addr s).toNat 16 r1 r2 s.f)

/-- With an ascending range, b[0] at least the length, every byte of the area supplied and room for pc, each POP
completes: b[0] is lowered by the length of the range, register r1 + i holds the E bytes at the new b[0] + i * E,
all other registers, the flags and all of memory are as before, and pc advances by 2. A POP of base registers
does not begin at register 0 (that one stops: another statement). Rests on 40_multiple_register.md sections 1 and
3 (decisions D13, D17, D28). -/
def Obligations.PopsLowerTheStackAndLoad : Prop :=
  (∀ (r1 r2 : RegNum) (s : State), (s.b.read 0).toNat ≤ s.addrLimit → r1 ≤ r2 →
      s.pc.toNat + 2 < s.addrLimit → rangeCount r1 r2 * 4 ≤ (s.b.read 0).toNat →
      Mapped s.mem ((s.b.read 0).toNat - rangeCount r1 r2 * 4) (rangeCount r1 r2 * 4) →
      ∃ t, exec (.lmuPop r1 r2) s = .next t ∧
        t = { s with x := t.x, b := s.b.write 0 (t.b.read 0), pc := s.pc + 2 } ∧
        (t.b.read 0).toNat = (s.b.read 0).toNat - rangeCount r1 r2 * 4 ∧
        RangeLoaded s ((s.b.read 0).toNat - rangeCount r1 r2 * 4) 4 r1 r2 s.x t.x) ∧
    (∀ (r1 r2 : RegNum) (s : State), (s.b.read 0).toNat ≤ s.addrLimit → r1 ≠ 0 → r1 ≤ r2 →
      s.pc.toNat + 2 < s.addrLimit → rangeCount r1 r2 * s.addrBytes ≤ (s.b.read 0).toNat →
      Mapped s.mem ((s.b.read 0).toNat - rangeCount r1 r2 * s.addrBytes) (rangeCount r1 r2 * s.addrBytes) →
      ∃ t, exec (.lmubrPop r1 r2) s = .next t ∧ t = { s with b := t.b, pc := s.pc + 2 } ∧
        (t.b.read 0).toNat = (s.b.read 0).toNat - rangeCount r1 r2 * s.addrBytes ∧
        RangeLoaded s ((s.b.read 0).toNat - rangeCount r1 r2 * s.addrBytes) s.addrBytes r1 r2
          (s.b.write 0 (t.b.read 0)) t.b) ∧
    (∀ (r1 r2 : RegNum) (s : State), (s.b.read 0).toNat ≤ s.addrLimit → r1 ≤ r2 →
      s.pc.toNat + 2 < s.addrLimit → rangeCount r1 r2 * 16 ≤ (s.b.read 0).toNat →
      Mapped s.mem ((s.b.read 0).toNat - rangeCount r1 r2 * 16) (rangeCount r1 r2 * 16) →
      ∃ t, exec (.lmuqPop r1 r2) s = .next t ∧
        t = { s with f := t.f, b := s.b.write 0 (t.b.read 0), pc := s.pc + 2 } ∧
        (t.b.read 0).toNat = (s.b.read 0).toNat - rangeCount r1 r2 * 16 ∧
        RangeLoaded s ((s.b.read 0).toNat - rangeCount r1 r2 * 16) 16 r1 r2 s.f t.f)

/-- With an ascending range, room for the length above b[0] within the address space and outside the program text,
and room for pc, each PUSH completes: the E bytes at the old b[0] + i * E hold register r1 + i (b[0] itself with
its old value), every other byte is as before, b[0] is raised by the length, no other register and no flag
changes, and pc advances by 2. Rests on 40_multiple_register.md sections 1 and 3 (decisions D13, D17, D28). -/
def Obligations.PushesStoreAndRaiseTheStack : Prop :=
  (∀ (r1 r2 : RegNum) (s : State), r1 ≤ r2 → s.pc.toNat + 2 < s.addrLimit →
      (s.b.read 0).toNat + rangeCount r1 r2 * 4 < s.addrLimit →
      ClearOfText s (s.b.read 0).toNat (rangeCount r1 r2 * 4) →
      ∃ t, exec (.stmuPush r1 r2) s = .next t ∧
        t = { s with mem := t.mem, b := s.b.write 0 (t.b.read 0), pc := s.pc + 2 } ∧
        (t.b.read 0).toNat = (s.b.read 0).toNat + rangeCount r1 r2 * 4 ∧
        RangeStored s t.mem (s.b.read 0).toNat 4 r1 r2 s.x) ∧
    (∀ (r1 r2 : RegNum) (s : State), FileFits s.addrLimit s.b → r1 ≤ r2 → s.pc.toNat + 2 < s.addrLimit →
      (s.b.read 0).toNat + rangeCount r1 r2 * s.addrBytes < s.addrLimit →
      ClearOfText s (s.b.read 0).toNat (rangeCount r1 r2 * s.addrBytes) →
      ∃ t, exec (.stmubrPush r1 r2) s = .next t ∧
        t = { s with mem := t.mem, b := s.b.write 0 (t.b.read 0), pc := s.pc + 2 } ∧
        (t.b.read 0).toNat = (s.b.read 0).toNat + rangeCount r1 r2 * s.addrBytes ∧
        RangeStored s t.mem (s.b.read 0).toNat s.addrBytes r1 r2 s.b) ∧
    (∀ (r1 r2 : RegNum) (s : State), r1 ≤ r2 → s.pc.toNat + 2 < s.addrLimit →
      (s.b.read 0).toNat + rangeCount r1 r2 * 16 < s.addrLimit →
      ClearOfText s (s.b.read 0).toNat (rangeCount r1 r2 * 16) →
      ∃ t, exec (.stmuqPush r1 r2) s = .next t ∧
        t = { s with mem := t.mem, b := s.b.write 0 (t.b.read 0), pc := s.pc + 2 } ∧
        (t.b.read 0).toNat = (s.b.read 0).toNat + rangeCount r1 r2 * 16 ∧
        RangeStored s t.mem (s.b.read 0).toNat 16 r1 r2 s.f)

/-- After a PUSH of a range of x, b (not beginning at b[0]) or f registers that completes, however that file has been
overwritten since (but for b[0]), the POP of the same range completes, gives each register of the range its value
from before the PUSH and b[0] its value from before, and leaves memory alone. Rests on 40_multiple_register.md
section 1 (order of a range, stack form; decision D17). -/
def Obligations.PopRestoresWhatPushSaved : Prop :=
  (∀ (r1 r2 : RegNum) (s t u : State), FileFits s.addrLimit s.b → exec (.stmuPush r1 r2) s = .next t →
      u = { t with x := u.x } →
      u.pc.toNat + 2 < u.addrLimit →
      ∃ w, exec (.lmuPop r1 r2) u = .next w ∧ w.b.read 0 = s.b.read 0 ∧ w.mem = t.mem ∧
        (∀ r : RegNum, r1 ≤ r → r ≤ r2 → w.x.read r = s.x.read r)) ∧
    (∀ (r1 r2 : RegNum) (s t u : State), FileFits s.addrLimit s.b → r1 ≠ 0 → exec (.stmubrPush r1 r2) s = .next t →
      u = { t with b := u.b } →
      u.b.read 0 = t.b.read 0 → u.pc.toNat + 2 < u.addrLimit →
      ∃ w, exec (.lmubrPop r1 r2) u = .next w ∧ w.b.read 0 = s.b.read 0 ∧ w.mem = t.mem ∧
        (∀ r : RegNum, r1 ≤ r → r ≤ r2 → w.b.read r = s.b.read r)) ∧
    (∀ (r1 r2 : RegNum) (s t u : State), FileFits s.addrLimit s.b → exec (.stmuqPush r1 r2) s = .next t →
      u = { t with f := u.f } →
      u.pc.toNat + 2 < u.addrLimit →
      ∃ w, exec (.lmuqPop r1 r2) u = .next w ∧ w.b.read 0 = s.b.read 0 ∧ w.mem = t.mem ∧
        (∀ r : RegNum, r1 ≤ r → r ≤ r2 → w.f.read r = s.f.read r))

/-- Where the ADDR_BYTES bytes at EA0 lie within the address space and hold v, each of the four completes: the named
register of its own file is v (SLBR with r = rB uses the old base; SLBR 0 loads the stack pointer), pc advances
by 4 and nothing else changes. Rests on 40_multiple_register.md section 4 (decision D6). -/
def Obligations.SupplementaryLoads : Prop :=
  (∀ (r rB : RegNum) (addr : Half) (s : State) (v : Addr), s.pc.toNat + 4 < s.addrLimit →
      (ea0 rB addr s).toNat + s.addrBytes ≤ s.addrLimit →
      Holds s.mem (ea0 rB addr s).toNat s.addrBytes v.toNat →
      exec (.slbr r rB addr) s = .next { s with b := s.b.write r v, pc := s.pc + 4 }) ∧
    (∀ (r rB : RegNum) (addr : Half) (s : State) (v : Addr), s.pc.toNat + 4 < s.addrLimit →
      (ea0 rB addr s).toNat + s.addrBytes ≤ s.addrLimit →
      Holds s.mem (ea0 rB addr s).toNat s.addrBytes v.toNat →
      exec (.slsb r rB addr) s = .next { s with sb := s.sb.write r v, pc := s.pc + 4 }) ∧
    (∀ (r rB : RegNum) (addr : Half) (s : State) (v : Addr), s.pc.toNat + 4 < s.addrLimit →
      (ea0 rB addr s).toNat + s.addrBytes ≤ s.addrLimit →
      Holds s.mem (ea0 rB addr s).toNat s.addrBytes v.toNat →
      exec (.slpsb r rB addr) s = .next { s with psb := s.psb.write r v, pc := s.pc + 4 }) ∧
    (∀ (r rB : RegNum) (addr : Half) (s : State) (v : Addr), s.pc.toNat + 4 < s.addrLimit →
      (ea0 rB addr s).toNat + s.addrBytes ≤ s.addrLimit →
      Holds s.mem (ea0 rB addr s).toNat s.addrBytes v.toNat →
      exec (.slasb r rB addr) s = .next { s with asb := s.asb.write r v, pc := s.pc + 4 })

/-- Where the ADDR_BYTES bytes at EA0 lie within the address space and outside the program text, each of the four
completes: those bytes hold the named register of its own file, every other byte is as before, pc advances by 4
and nothing else changes. The premise that the file fits the address space is part of the invariant. Rests on
40_multiple_register.md section 4 (decision D6). -/
def Obligations.SupplementaryStores : Prop :=
  (∀ (r rB : RegNum) (addr : Half) (s : State), FileFits s.addrLimit s.b →
      s.pc.toNat + 4 < s.addrLimit → (ea0 rB addr s).toNat + s.addrBytes ≤ s.addrLimit →
      ClearOfText s (ea0 rB addr s).toNat s.addrBytes →
      ∃ m, exec (.sstbr r rB addr) s = .next { s with mem := m, pc := s.pc + 4 } ∧
        Stored s.mem m (ea0 rB addr s).toNat s.addrBytes (s.b.read r).toNat) ∧
    (∀ (r rB : RegNum) (addr : Half) (s : State), FileFits s.addrLimit s.sb →
      s.pc.toNat + 4 < s.addrLimit → (ea0 rB addr s).toNat + s.addrBytes ≤ s.addrLimit →
      ClearOfText s (ea0 rB addr s).toNat s.addrBytes →
      ∃ m, exec (.sssb r rB addr) s = .next { s with mem := m, pc := s.pc + 4 } ∧
        Stored s.mem m (ea0 rB addr s).toNat s.addrBytes (s.sb.read r).toNat) ∧
    (∀ (r rB : RegNum) (addr : Half) (s : State), FileFits s.addrLimit s.psb →
      s.pc.toNat + 4 < s.addrLimit → (ea0 rB addr s).toNat + s.addrBytes ≤ s.addrLimit →
      ClearOfText s (ea0 rB addr s).toNat s.addrBytes →
      ∃ m, exec (.sspsb r rB addr) s = .next { s with mem := m, pc := s.pc + 4 } ∧
        Stored s.mem m (ea0 rB addr s).toNat s.addrBytes (s.psb.read r).toNat) ∧
    (∀ (r rB : RegNum) (addr : Half) (s : State), FileFits s.addrLimit s.asb →
      s.pc.toNat + 4 < s.addrLimit → (ea0 rB addr s).toNat + s.addrBytes ≤ s.addrLimit →
      ClearOfText s (ea0 rB addr s).toNat s.addrBytes →
      ∃ m, exec (.ssasb r rB addr) s = .next { s with mem := m, pc := s.pc + 4 } ∧
        Stored s.mem m (ea0 rB addr s).toNat s.addrBytes (s.asb.read r).toNat)

/-- For each jump of the list with its condition: when the status word meets the condition and the target (EA0 where
rX is zero, which is no indexing by x[0]; else the address stored at EA1) is even, it completes with pc at the
target; when it does not, it completes with pc advanced by 4, whatever the target would be. Nothing else changes
in either case. Rests on 41_jumps.md sections 1, 3 and 4 (decisions D11, D14, D19); 10_state.md section 6. -/
def Obligations.JumpsOnTheStatusWord : Prop :=
  ∀ j ∈ ([(Instr.jl, Cond.low), (Instr.je, Cond.equal), (Instr.jle, Cond.lowOrEqual), (Instr.jh, Cond.high),
      (Instr.jne, Cond.notEqual), (Instr.jhe, Cond.highOrEqual), (Instr.jnv, Cond.noOverflow), (Instr.jv, Cond.overflow),
      (Instr.jc, Cond.carry), (Instr.jnc, Cond.noCarry), (Instr.jmp, Cond.always)] :
      List ((RegNum → RegNum → Half → Instr) × Cond)),
    ∀ (rX rB : RegNum) (addr : Half) (s : State),
      (∀ a, condHolds j.2 s.sw = true → JumpsTo s rX rB addr a → a.getLsbD 0 = false →
        exec (j.1 rX rB addr) s = .next { s with pc := a }) ∧
        (condHolds j.2 s.sw = false → s.pc.toNat + 4 < s.addrLimit →
          exec (j.1 rX rB addr) s = .next { s with pc := s.pc + 4 })

/-- For each jump of the list with its condition: when the saved copy of the condition codes meets the condition and
the target (EA0 where rX is zero, which is no indexing by x[0]; else the address stored at EA1) is even, it
completes with pc at the target; when it does not, it completes with pc advanced by 4, whatever the target would
be. Nothing else changes in either case. Rests on 41_jumps.md sections 1, 3 and 4 (decisions D11, D14, D19);
10_state.md section 6. -/
def Obligations.JumpsOnTheSavedStatus : Prop :=
  ∀ j ∈ ([(Instr.jvl, Cond.low), (Instr.jve, Cond.equal), (Instr.jvle, Cond.lowOrEqual), (Instr.jvh, Cond.high),
      (Instr.jvne, Cond.notEqual), (Instr.jvhe, Cond.highOrEqual), (Instr.jvnv, Cond.noOverflow), (Instr.jvv, Cond.overflow),
      (Instr.jvc, Cond.carry), (Instr.jvnc, Cond.noCarry)] :
      List ((RegNum → RegNum → Half → Instr) × Cond)),
    ∀ (rX rB : RegNum) (addr : Half) (s : State),
      (∀ a, condHolds j.2 s.ssw = true → JumpsTo s rX rB addr a → a.getLsbD 0 = false →
        exec (j.1 rX rB addr) s = .next { s with pc := a }) ∧
        (condHolds j.2 s.ssw = false → s.pc.toNat + 4 < s.addrLimit →
          exec (j.1 rX rB addr) s = .next { s with pc := s.pc + 4 })

/-- With an even target computed from the registers before the instruction and room for the return address: with rR
nonzero, b[rR] is pc + 4 and pc the target; with rR zero, the ADDR_BYTES bytes at b[0] hold pc + 4, b[0] is
raised by ADDR_BYTES, every other byte is as before and pc is the target. Nothing else changes. Rests on
41_jumps.md section 2 (decisions D17, D28). -/
def Obligations.JumpToSubroutineSavesTheReturnAddress : Prop :=
  (∀ (rR rX rB : RegNum) (addr : Half) (s : State) (a : Addr), rR ≠ 0 → JumpsTo s rX rB addr a →
    a.getLsbD 0 = false → s.pc.toNat + 4 < s.addrLimit →
    exec (.jms rR rX rB addr) s = .next { s with b := s.b.write rR (s.pc + 4), pc := a }) ∧
    (∀ (rX rB : RegNum) (addr : Half) (s : State) (a : Addr), JumpsTo s rX rB addr a → a.getLsbD 0 = false →
      s.pc.toNat + 4 < s.addrLimit → (s.b.read 0).toNat + s.addrBytes < s.addrLimit →
      ClearOfText s (s.b.read 0).toNat s.addrBytes →
      ∃ m sp, exec (.jms 0 rX rB addr) s = .next { s with mem := m, b := s.b.write 0 sp, pc := a } ∧
        sp.toNat = (s.b.read 0).toNat + s.addrBytes ∧
        Stored s.mem m (s.b.read 0).toNat s.addrBytes (s.pc.toNat + 4))

/-- From an even pc with room for the return address and a target pc + 4 + 2 * disp (disp signed, in halfwords)
within the address space: with rR nonzero, b[rR] is pc + 4; with rR zero, the ADDR_BYTES bytes at b[0] hold pc +
4, b[0] is raised by ADDR_BYTES and every other byte is as before. pc is the target and nothing else changes.
Rests on 41_jumps.md section 6 (LBRS; decision D28). -/
def Obligations.LongBranchToSubroutineSavesTheReturnAddress : Prop :=
  ∀ (rR : RegNum) (disp : Half) (s : State) (a : Addr), s.pc.getLsbD 0 = false →
    s.pc.toNat + 4 < s.addrLimit → (a.toNat : Int) = s.pc.toNat + 4 + 2 * disp.toInt → a.toNat < s.addrLimit →
    (rR ≠ 0 → exec (.lbrs rR disp) s = .next { s with b := s.b.write rR (s.pc + 4), pc := a }) ∧
      (rR = 0 → (s.b.read 0).toNat + s.addrBytes < s.addrLimit →
        ClearOfText s (s.b.read 0).toNat s.addrBytes →
        ∃ m sp, exec (.lbrs rR disp) s = .next { s with mem := m, b := s.b.write 0 sp, pc := a } ∧
          sp.toNat = (s.b.read 0).toNat + s.addrBytes ∧
          Stored s.mem m (s.b.read 0).toNat s.addrBytes (s.pc.toNat + 4))

/-- The count register is decremented (JXH) or incremented (JXLE) modulo 2^32 whether or not the jump is taken; the
updated count is compared, signed, with the limit register (the same register is allowed): when it is high (JXH)
or low or equal (JXLE) and EA0 is even, pc is EA0, else pc advances by 4. Nothing else changes. Step, comparison
and wrap are the spec's decision D18. Rests on 41_jumps.md section 5 (decision D18). -/
def Obligations.CountAndCompareJumps : Prop :=
  (∀ (cR lR rB : RegNum) (addr : Half) (s : State) (x : RegFile 32),
      x = s.x.write cR (s.x.read cR - 1) →
      ((x.read lR).toInt < (x.read cR).toInt → (ea0 rB addr s).getLsbD 0 = false →
        exec (.jxh cR lR rB addr) s = .next { s with x := x, pc := ea0 rB addr s }) ∧
        ((x.read cR).toInt ≤ (x.read lR).toInt → s.pc.toNat + 4 < s.addrLimit →
          exec (.jxh cR lR rB addr) s = .next { s with x := x, pc := s.pc + 4 })) ∧
    (∀ (cR lR rB : RegNum) (addr : Half) (s : State) (x : RegFile 32),
      x = s.x.write cR (s.x.read cR + 1) →
      ((x.read cR).toInt ≤ (x.read lR).toInt → (ea0 rB addr s).getLsbD 0 = false →
        exec (.jxle cR lR rB addr) s = .next { s with x := x, pc := ea0 rB addr s }) ∧
        ((x.read lR).toInt < (x.read cR).toInt → s.pc.toNat + 4 < s.addrLimit →
          exec (.jxle cR lR rB addr) s = .next { s with x := x, pc := s.pc + 4 }))

/-- The count register is decremented (LBXH) or incremented (LBXLE) modulo 2^32 whether or not the branch is taken;
when the updated count is high (low or equal) against the limit, signed, pc is pc + 4 + 2 * disp if that lies
within the address space; else pc advances by 4. Nothing else changes. Step, comparison and wrap are the spec's
decision D18. Rests on 41_jumps.md section 6 (LBXH, LBXLE; decisions D18, D28). -/
def Obligations.CountAndCompareLongBranches : Prop :=
  (∀ (cR lR : RegNum) (disp : Half) (s : State) (x : RegFile 32),
      x = s.x.write cR (s.x.read cR - 1) →
      (∀ a : Addr, (x.read lR).toInt < (x.read cR).toInt → s.pc.getLsbD 0 = false →
        (a.toNat : Int) = s.pc.toNat + 4 + 2 * disp.toInt → a.toNat < s.addrLimit →
        exec (.lbxh cR lR disp) s = .next { s with x := x, pc := a }) ∧
        ((x.read cR).toInt ≤ (x.read lR).toInt → s.pc.toNat + 4 < s.addrLimit →
          exec (.lbxh cR lR disp) s = .next { s with x := x, pc := s.pc + 4 })) ∧
    (∀ (cR lR : RegNum) (disp : Half) (s : State) (x : RegFile 32),
      x = s.x.write cR (s.x.read cR + 1) →
      (∀ a : Addr, (x.read cR).toInt ≤ (x.read lR).toInt → s.pc.getLsbD 0 = false →
        (a.toNat : Int) = s.pc.toNat + 4 + 2 * disp.toInt → a.toNat < s.addrLimit →
        exec (.lbxle cR lR disp) s = .next { s with x := x, pc := a }) ∧
        ((x.read lR).toInt < (x.read cR).toInt → s.pc.toNat + 4 < s.addrLimit →
          exec (.lbxle cR lR disp) s = .next { s with x := x, pc := s.pc + 4 }))

/-- For each long branch of the list with its condition, disp the whole second halfword, signed, in halfwords: when
the status word meets the condition and pc + 4 + 2 * disp lies within the address space, pc (even before) is that
target; when it does not, pc advances by 4. Nothing else changes in either case. Rests on 41_jumps.md section 6
(decision D28); 10_state.md section 6. -/
def Obligations.LongBranches : Prop :=
  ∀ j ∈ ([(Instr.lbl, Cond.low), (Instr.lbe, Cond.equal), (Instr.lble, Cond.lowOrEqual), (Instr.lbh, Cond.high),
      (Instr.lbne, Cond.notEqual), (Instr.lbhe, Cond.highOrEqual), (Instr.lbnv, Cond.noOverflow), (Instr.lbv, Cond.overflow),
      (Instr.lbc, Cond.carry), (Instr.lbnc, Cond.noCarry), (Instr.lbra, Cond.always)] :
      List ((Half → Instr) × Cond)),
    ∀ (disp : Half) (s : State),
      (∀ a : Addr, condHolds j.2 s.sw = true → s.pc.getLsbD 0 = false →
        (a.toNat : Int) = s.pc.toNat + 4 + 2 * disp.toInt → a.toNat < s.addrLimit →
        exec (j.1 disp) s = .next { s with pc := a }) ∧
        (condHolds j.2 s.sw = false → s.pc.toNat + 4 < s.addrLimit →
          exec (j.1 disp) s = .next { s with pc := s.pc + 4 })

/-- For each branch of the list with its condition, disp six bits, signed, in halfwords (decision D23): when the
status word meets the condition and pc + 2 + 2 * disp lies within the address space, pc (even before) is that
target; when it does not, pc advances by 2. Nothing else changes in either case. Rests on 44_branch_return.md
section 1 (decisions D23, D28); 10_state.md section 6. -/
def Obligations.ShortBranches : Prop :=
  ∀ j ∈ ([(Instr.bl, Cond.low), (Instr.be, Cond.equal), (Instr.ble, Cond.lowOrEqual), (Instr.bh, Cond.high),
      (Instr.bne, Cond.notEqual), (Instr.bhe, Cond.highOrEqual), (Instr.bnv, Cond.noOverflow), (Instr.bv, Cond.overflow),
      (Instr.bc, Cond.carry), (Instr.bnc, Cond.noCarry), (Instr.bra, Cond.always)] :
      List ((BitVec 6 → Instr) × Cond)),
    ∀ (disp : BitVec 6) (s : State),
      (∀ a : Addr, condHolds j.2 s.sw = true → s.pc.getLsbD 0 = false →
        (a.toNat : Int) = s.pc.toNat + 2 + 2 * disp.toInt → a.toNat < s.addrLimit →
        exec (j.1 disp) s = .next { s with pc := a }) ∧
        (condHolds j.2 s.sw = false → s.pc.toNat + 2 < s.addrLimit →
          exec (j.1 disp) s = .next { s with pc := s.pc + 2 })

/-- For each return of the list with its condition: when the status word meets it and the ADDR_BYTES bytes below b[0]
hold v, b[0] is lowered by ADDR_BYTES and pc is v if v is even, else the step stops with misalignedTarget; b[0]
below ADDR_BYTES stops with addressWrap; when it does not meet it, pc advances by 2. Nothing else changes, the
popped word included. The two stops are the spec's decisions D19 and D28 (log entries 10, 16), Carry and No Carry
its D11. Rests on 44_branch_return.md section 2; 10_state.md section 6 (conditions; decision D11); 20_memory.md
section 3 (instruction alignment; decision D19); 40_multiple_register.md section 1 (stack; decision D28). -/
def Obligations.ReturnsPopTheProgramCounter : Prop :=
  ∀ j ∈ ([(Instr.rl, Cond.low), (Instr.re, Cond.equal), (Instr.rle, Cond.lowOrEqual), (Instr.rh, Cond.high),
      (Instr.rne, Cond.notEqual), (Instr.rhe, Cond.highOrEqual), (Instr.rnv, Cond.noOverflow), (Instr.rv, Cond.overflow),
      (Instr.rc, Cond.carry), (Instr.rnc, Cond.noCarry), (Instr.rss, Cond.always)] :
      List (Instr × Cond)),
    ∀ s : State,
      (∀ v : Addr, condHolds j.2 s.sw = true → s.addrBytes ≤ (s.b.read 0).toNat →
        (s.b.read 0).toNat ≤ s.addrLimit →
        Holds s.mem ((s.b.read 0).toNat - s.addrBytes) s.addrBytes v.toNat →
        (v.getLsbD 0 = false →
          ∃ sp, exec j.1 s = .next { s with b := s.b.write 0 sp, pc := v } ∧
            sp.toNat = (s.b.read 0).toNat - s.addrBytes) ∧
          (v.getLsbD 0 = true → exec j.1 s = .fault (.misalignedTarget v))) ∧
        (condHolds j.2 s.sw = true → (s.b.read 0).toNat < s.addrBytes →
          exec j.1 s = .fault (.addressWrap ((s.b.read 0).toNat - s.addrBytes))) ∧
        (condHolds j.2 s.sw = false → s.pc.toNat + 2 < s.addrLimit →
          exec j.1 s = .next { s with pc := s.pc + 2 })

/-- From a sound state, after a JMS or LBRS with rR zero that completes, RSS completes with pc at the instruction
after the call and b[0] as before the call; memory still holds the pushed word and nothing else differs from the
state after the call. Rests on 41_jumps.md sections 2, 6 and 7; 44_branch_return.md section 2. -/
def Obligations.ReturnUndoesAStackCall : Prop :=
  ∀ s t : State, s.Sound →
    ((∃ rX rB addr, exec (.jms 0 rX rB addr) s = .next t) ∨ (∃ disp, exec (.lbrs 0 disp) s = .next t)) →
    exec .rss t = .next { t with b := s.b, pc := s.pc + 4 }

/-- From a sound state, after a JMS or LBRS with rR nonzero that completes, a jump with base register rR, no index
and address field zero completes with pc at the instruction after the call and changes nothing else. Rests on
41_jumps.md section 7 (linkage conventions). -/
def Obligations.JumpThroughTheLinkRegisterReturns : Prop :=
  ∀ (s t : State) (rR : RegNum), s.Sound → rR ≠ 0 →
    ((∃ rX rB addr, exec (.jms rR rX rB addr) s = .next t) ∨ (∃ disp, exec (.lbrs rR disp) s = .next t)) →
    exec (.jmp 0 rR 0) t = .next { t with pc := s.pc + 4 }

/-- For a count of at most 32 and a destination pair that does not pass x[7], each completes: with the source at bit
p of the 64-bit pair (p = n for ESL, 32 - n for ESR), bit i of the pair under the source becomes conn[3 - (2 *
source bit + destination bit)], every other bit and register is as before, SSW, memory and all else unchanged, no
flag stated (free under havoc, log entry 3), pc advances by 4. That x[rD] is the more significant word and which
operands are valid are the spec's decision D20 (log entry 12); the others stop (another statement). Rests on
42_extensible_shift.md section 1 (validity, placement, combination, flags; decisions D10, D20). -/
def Obligations.ExtensibleShiftsCombineBits : Prop :=
  (∀ (rD rS : RegNum) (conn : BitVec 4) (n : BitVec 6) (s : State) (p : Nat), rD ≠ 7 → n.toNat ≤ 32 →
      p = n.toNat → s.pc.toNat + 4 < s.addrLimit →
      ∃ t, exec (.esl rD rS conn n) s = .next t ∧
        t = { s with x := t.x, sw := t.sw, draws := t.draws, pc := s.pc + 4 } ∧
        FlagsAfter s t none none none ∧ (∀ q : RegNum, q ≠ rD → q ≠ rD + 1 → t.x.read q = s.x.read q) ∧
        (∀ i, p ≤ i → i < p + 32 →
          (readPair rD t).getLsbD i =
            conn.getLsbD (3 - (2 * ((s.x.read rS).getLsbD (i - p)).toNat + ((readPair rD s).getLsbD i).toNat))) ∧
        (∀ i, i < p ∨ p + 32 ≤ i → (readPair rD t).getLsbD i = (readPair rD s).getLsbD i)) ∧
    (∀ (rD rS : RegNum) (conn : BitVec 4) (n : BitVec 6) (s : State) (p : Nat), rD ≠ 7 → n.toNat ≤ 32 →
      p = 32 - n.toNat → s.pc.toNat + 4 < s.addrLimit →
      ∃ t, exec (.esr rD rS conn n) s = .next t ∧
        t = { s with x := t.x, sw := t.sw, draws := t.draws, pc := s.pc + 4 } ∧
        FlagsAfter s t none none none ∧ (∀ q : RegNum, q ≠ rD → q ≠ rD + 1 → t.x.read q = s.x.read q) ∧
        (∀ i, p ≤ i → i < p + 32 →
          (readPair rD t).getLsbD i =
            conn.getLsbD (3 - (2 * ((s.x.read rS).getLsbD (i - p)).toNat + ((readPair rD s).getLsbD i).toNat))) ∧
        (∀ i, i < p ∨ p + 32 ≤ i → (readPair rD t).getLsbD i = (readPair rD s).getLsbD i))

/-- For every count of at most 32, every source, connective and state, and every destination pair that does not pass
x[7], ESL with count n and ESR with count 32 - n have the same outcome, stops included; with rD = 7 each stops
with reservedOperand naming itself (decision D20). Rests on 42_extensible_shift.md section 1 (validity, placement
of the source; decision D20). -/
def Obligations.ExtensibleShiftsDoEachOthersWork : Prop :=
  ∀ (rD rS : RegNum) (conn : BitVec 4) (n : BitVec 6) (s : State), n.toNat ≤ 32 →
    (rD ≠ 7 → exec (.esl rD rS conn n) s = exec (.esr rD rS conn (32 - n)) s) ∧
      (rD = 7 → ∀ i ∈ ([.esl rD rS conn n, .esr rD rS conn (32 - n)] : List Instr),
        exec i s = .fault (.reservedOperand i .pairPastLast))

/-- For every pair of words, connective 0000 gives zero, 0001 AND, 0011 the source, 0101 the destination, 0110 XOR,
0111 OR, 1000 NOR, and so on for all sixteen. Rests on 42_extensible_shift.md section 1 (the sixteen
connectives). -/
def Obligations.SixteenConnectives : Prop :=
  ∀ s d : Long,
    connect 0b0000#4 s d = 0 ∧ connect 0b1000#4 s d = ~~~(s ||| d) ∧
      connect 0b0001#4 s d = s &&& d ∧ connect 0b1001#4 s d = ~~~(s ^^^ d) ∧
      connect 0b0010#4 s d = s &&& ~~~d ∧ connect 0b1010#4 s d = ~~~d ∧
      connect 0b0011#4 s d = s ∧ connect 0b1011#4 s d = s ||| ~~~d ∧
      connect 0b0100#4 s d = ~~~s &&& d ∧ connect 0b1100#4 s d = ~~~s ∧
      connect 0b0101#4 s d = d ∧ connect 0b1101#4 s d = ~~~s ||| d ∧
      connect 0b0110#4 s d = s ^^^ d ∧ connect 0b1110#4 s d = ~~~(s &&& d) ∧
      connect 0b0111#4 s d = s ||| d ∧ connect 0b1111#4 s d = BitVec.allOnes 64

/-- For each byte shift of the list with its operation and every count the field holds, the low 8 bits of x[r] become
what the operation's formula makes of them (the rotates through carry using and stating SW.C); the bits above are
as NARROW_UPPER says (free under havoc), the flags the operation does not state as FLAGS_UNSTATED says (free
under havoc); no other register, no memory and nothing else changes but pc, which advances by 2. The formulas are
the spec's decisions D21, D22. Rests on 43_shifts.md sections 2 and 3 (decisions D10, D21, D22, D24). -/
def Obligations.ByteShifts : Prop :=
  ∀ j ∈ ([(Instr.shlb, ShiftOp.shl), (Instr.shrb, ShiftOp.shr), (Instr.asrb, ShiftOp.asr), (Instr.rolb, ShiftOp.rol),
      (Instr.rorb, ShiftOp.ror), (Instr.rlcb, ShiftOp.rlc), (Instr.rrcb, ShiftOp.rrc)] :
      List ((RegNum → BitVec 3 → Instr) × ShiftOp)),
    ∀ (r : RegNum) (n : BitVec 3) (s : State), s.pc.toNat + 2 < s.addrLimit →
      ∃ t c', exec (j.1 r n) s = .next t ∧
        t = { s with x := t.x, sw := t.sw, draws := t.draws, pc := s.pc + 2 } ∧
        ShiftFormula j.2 n.toNat s.sw.c ((s.x.read r).setWidth 8) ((t.x.read r).setWidth 8) c' ∧
        NarrowAfter s (s.x.read r) (t.x.read r) ((t.x.read r).setWidth 8) ∧
        FlagsAfter s t c' none none ∧ (∀ q : RegNum, q ≠ r → t.x.read q = s.x.read q)

/-- For each halfword shift of the list with its operation and every count the field holds, the low 16 bits of x[r]
become what the operation's formula makes of them (the rotates through carry using and stating SW.C); the bits
above are as NARROW_UPPER says (free under havoc), the flags the operation does not state as FLAGS_UNSTATED says
(free under havoc); no other register, no memory and nothing else changes but pc, which advances by 2. The
formulas are the spec's decisions D21, D22. Rests on 43_shifts.md sections 2 and 3 (decisions D10, D21, D22,
D24). -/
def Obligations.HalfwordShifts : Prop :=
  ∀ j ∈ ([(Instr.shlh, ShiftOp.shl), (Instr.shrh, ShiftOp.shr), (Instr.asrh, ShiftOp.asr), (Instr.rolh, ShiftOp.rol),
      (Instr.rorh, ShiftOp.ror), (Instr.rlch, ShiftOp.rlc), (Instr.rrch, ShiftOp.rrc)] :
      List ((RegNum → BitVec 4 → Instr) × ShiftOp)),
    ∀ (r : RegNum) (n : BitVec 4) (s : State), s.pc.toNat + 2 < s.addrLimit →
      ∃ t c', exec (j.1 r n) s = .next t ∧
        t = { s with x := t.x, sw := t.sw, draws := t.draws, pc := s.pc + 2 } ∧
        ShiftFormula j.2 n.toNat s.sw.c ((s.x.read r).setWidth 16) ((t.x.read r).setWidth 16) c' ∧
        NarrowAfter s (s.x.read r) (t.x.read r) ((t.x.read r).setWidth 16) ∧
        FlagsAfter s t c' none none ∧ (∀ q : RegNum, q ≠ r → t.x.read q = s.x.read q)

/-- For each word shift of the list with its operation and every count from 0 to 31, x[r] becomes what the
operation's formula makes of it (the rotates through carry using and stating SW.C); the flags the operation does
not state are as FLAGS_UNSTATED says (free under havoc); no other register, no memory and nothing else changes
but pc, which advances by 2. The formulas are the spec's decisions D21, D22. Rests on 43_shifts.md sections 2 and
3 (decisions D10, D21, D22, D24). -/
def Obligations.WordShifts : Prop :=
  ∀ j ∈ ([(Instr.shl, ShiftOp.shl), (Instr.shr, ShiftOp.shr), (Instr.asr, ShiftOp.asr), (Instr.rol, ShiftOp.rol),
      (Instr.ror, ShiftOp.ror), (Instr.rlc, ShiftOp.rlc), (Instr.rrc, ShiftOp.rrc)] :
      List ((RegNum → BitVec 5 → Instr) × ShiftOp)),
    ∀ (r : RegNum) (n : BitVec 5) (s : State), s.pc.toNat + 2 < s.addrLimit →
      ∃ t c', exec (j.1 r n) s = .next t ∧
        t = { s with x := t.x, sw := t.sw, draws := t.draws, pc := s.pc + 2 } ∧
        ShiftFormula j.2 n.toNat s.sw.c (s.x.read r) (t.x.read r) c' ∧
        FlagsAfter s t c' none none ∧ (∀ q : RegNum, q ≠ r → t.x.read q = s.x.read q)

/-- For each long shift of the list with its operation, every even r and every count from 0 to 63, the pair
x[r]:x[r+1] (x[r] the more significant) becomes what the operation's formula makes of it (the rotates through
carry using and stating SW.C); the flags it does not state are as FLAGS_UNSTATED says (free under havoc); no
other register, no memory and nothing else changes but pc, which advances by 2. The pair is the spec's decision
D9. Rests on 43_shifts.md sections 2 and 3 (decisions D9, D10, D22, D24). -/
def Obligations.LongShifts : Prop :=
  ∀ j ∈ ([(Instr.shll, ShiftOp.shl), (Instr.shrl, ShiftOp.shr), (Instr.asrl, ShiftOp.asr), (Instr.roll, ShiftOp.rol),
      (Instr.rorl, ShiftOp.ror), (Instr.rlcl, ShiftOp.rlc), (Instr.rrcl, ShiftOp.rrc)] :
      List ((RegNum → BitVec 6 → Instr) × ShiftOp)),
    ∀ (r : RegNum) (n : BitVec 6) (s : State), r.getLsbD 0 = false → s.pc.toNat + 2 < s.addrLimit →
      ∃ t c', exec (j.1 r n) s = .next t ∧
        t = { s with x := t.x, sw := t.sw, draws := t.draws, pc := s.pc + 2 } ∧
        ShiftFormula j.2 n.toNat s.sw.c (readPair r s) (readPair r t) c' ∧
        FlagsAfter s t c' none none ∧ (∀ q : RegNum, q ≠ r → q ≠ r + 1 → t.x.read q = s.x.read q)

/-- Each completes wherever pc has room, whatever the register holds: CLR r, encoded 0o02220r, makes x[r] zero; INV
r, encoded 0o02222r, makes x[r] its exclusive or with 0xFFFFFFFF; no other register, no memory and nothing else
changes; every flag is unstated (as FLAGS_UNSTATED says, free under havoc); pc advances by 2. States R304, R308. -/
def Obligations.ClearAndInvert : Prop :=
  (∀ (r : RegNum) (s : State), s.pc.toNat + 2 < s.addrLimit →
      ∃ t, exec (.clr r) s = .next t ∧
        t = { s with x := s.x.write r (0), sw := t.sw, draws := t.draws, pc := s.pc + 2 } ∧
        FlagsAfter s t none none none ∧ encode s.params.esLayout .normal (.clr r) = [0o022200#16 ||| r.setWidth 16]) ∧
    (∀ (r : RegNum) (s : State), s.pc.toNat + 2 < s.addrLimit →
      ∃ t, exec (.inv r) s = .next t ∧
        t = { s with x := s.x.write r (s.x.read r ^^^ 0xFFFFFFFF#32), sw := t.sw, draws := t.draws, pc := s.pc + 2 } ∧
        FlagsAfter s t none none none ∧ encode s.params.esLayout .normal (.inv r) = [0o022220#16 ||| r.setWidth 16])

/-- For even r and room for pc each completes: both registers of the pair are zero (CLRL) or their own inverse
(INVL); no other register, no memory and nothing else changes; every flag is unstated (free under havoc); pc
advances by 2. The pair is the spec's decision D9. Rests on 45_single_operand.md section 1 (decision D9). -/
def Obligations.ClearAndInvertLong : Prop :=
  (∀ (r : RegNum) (s : State), r.getLsbD 0 = false → s.pc.toNat + 2 < s.addrLimit →
      ∃ t, exec (.clrl r) s = .next t ∧
        t = { s with x := t.x, sw := t.sw, draws := t.draws, pc := s.pc + 2 } ∧ FlagsAfter s t none none none ∧
        t.x.read r = 0 ∧ t.x.read (r + 1) = 0 ∧
        (∀ q : RegNum, q ≠ r → q ≠ r + 1 → t.x.read q = s.x.read q)) ∧
    (∀ (r : RegNum) (s : State), r.getLsbD 0 = false → s.pc.toNat + 2 < s.addrLimit →
      ∃ t, exec (.invl r) s = .next t ∧
        t = { s with x := t.x, sw := t.sw, draws := t.draws, pc := s.pc + 2 } ∧ FlagsAfter s t none none none ∧
        t.x.read r = ~~~(s.x.read r) ∧ t.x.read (r + 1) = ~~~(s.x.read (r + 1)) ∧
        (∀ q : RegNum, q ≠ r → q ≠ r + 1 → t.x.read q = s.x.read q))

/-- Wherever pc has room (and r is even, for a pair), each completes: the operand becomes its two's complement modulo
2^W, for ABS only if its first bit is set; SW.V is 1 exactly if the operand was 2^(W-1), SW.R is the sign of the
stored result, SW.C is unstated (free under havoc); no other register, no memory and nothing else changes; pc
advances by 2. V written 0 otherwise and R of the overflow case are the spec's decision D33. Rests on
45_single_operand.md section 1 (decisions D9, D10, D33). -/
def Obligations.NegateAndAbsoluteValue : Prop :=
  (∀ (r : RegNum) (s : State), s.pc.toNat + 2 < s.addrLimit →
      ∃ t, exec (.neg r) s = .next t ∧
        t = { s with x := t.x, sw := t.sw, draws := t.draws, pc := s.pc + 2 } ∧
        (t.x.read r).toNat = (2 ^ 32 - (s.x.read r).toNat) % 2 ^ 32 ∧
        FlagsAfter s t none (some (decide ((s.x.read r).toNat = 2 ^ 31))) (some (signFormula (t.x.read r))) ∧
        (∀ q : RegNum, q ≠ r → t.x.read q = s.x.read q)) ∧
    (∀ (r : RegNum) (s : State), r.getLsbD 0 = false → s.pc.toNat + 2 < s.addrLimit →
      ∃ t, exec (.negl r) s = .next t ∧
        t = { s with x := t.x, sw := t.sw, draws := t.draws, pc := s.pc + 2 } ∧
        (readPair r t).toNat = (2 ^ 64 - (readPair r s).toNat) % 2 ^ 64 ∧
        FlagsAfter s t none (some (decide ((readPair r s).toNat = 2 ^ 63))) (some (signFormula (readPair r t))) ∧
        (∀ q : RegNum, q ≠ r → q ≠ r + 1 → t.x.read q = s.x.read q)) ∧
    (∀ (r : RegNum) (s : State), s.pc.toNat + 2 < s.addrLimit →
      ∃ t, exec (.abs r) s = .next t ∧
        t = { s with x := t.x, sw := t.sw, draws := t.draws, pc := s.pc + 2 } ∧
        (t.x.read r).toNat =
          (if (s.x.read r).msb then (2 ^ 32 - (s.x.read r).toNat) % 2 ^ 32 else (s.x.read r).toNat) ∧
        FlagsAfter s t none (some (decide ((s.x.read r).toNat = 2 ^ 31))) (some (signFormula (t.x.read r))) ∧
        (∀ q : RegNum, q ≠ r → t.x.read q = s.x.read q)) ∧
    (∀ (r : RegNum) (s : State), r.getLsbD 0 = false → s.pc.toNat + 2 < s.addrLimit →
      ∃ t, exec (.absl r) s = .next t ∧
        t = { s with x := t.x, sw := t.sw, draws := t.draws, pc := s.pc + 2 } ∧
        (readPair r t).toNat =
          (if (readPair r s).msb then (2 ^ 64 - (readPair r s).toNat) % 2 ^ 64 else (readPair r s).toNat) ∧
        FlagsAfter s t none (some (decide ((readPair r s).toNat = 2 ^ 63))) (some (signFormula (readPair r t))) ∧
        (∀ q : RegNum, q ≠ r → q ≠ r + 1 → t.x.read q = s.x.read q))

/-- For a nonzero operand and different registers, each completes: the operand in the low bits of x[rS] is shifted
left by the least k that makes its first bit 1, x[rD] is k, the bits of x[rS] above the operand are as
NARROW_UPPER says (free under havoc), every flag is unstated (free under havoc); no other register, no memory and
nothing else changes; pc advances by 2. Which register is the source is the spec's decision D24. Rests on
45_single_operand.md section 2 (decisions D24, D25, D10, D21). -/
def Obligations.NormalizeByteAndHalfword : Prop :=
  (∀ (rD rS : RegNum) (s : State) (v : BitVec 8), v = (s.x.read rS).setWidth 8 → rD ≠ rS → v ≠ 0 →
      s.pc.toNat + 2 < s.addrLimit →
      ∃ t k, exec (.nb rD rS) s = .next t ∧
        t = { s with x := t.x, sw := t.sw, draws := t.draws, pc := s.pc + 2 } ∧ FlagsAfter s t none none none ∧
        NormalizedBy v k ∧ NarrowAfter s (s.x.read rS) (t.x.read rS) (v <<< k) ∧ (t.x.read rD).toNat = k ∧
        (∀ q : RegNum, q ≠ rD → q ≠ rS → t.x.read q = s.x.read q)) ∧
    (∀ (rD rS : RegNum) (s : State) (v : BitVec 16), v = (s.x.read rS).setWidth 16 → rD ≠ rS → v ≠ 0 →
      s.pc.toNat + 2 < s.addrLimit →
      ∃ t k, exec (.nh rD rS) s = .next t ∧
        t = { s with x := t.x, sw := t.sw, draws := t.draws, pc := s.pc + 2 } ∧ FlagsAfter s t none none none ∧
        NormalizedBy v k ∧ NarrowAfter s (s.x.read rS) (t.x.read rS) (v <<< k) ∧ (t.x.read rD).toNat = k ∧
        (∀ q : RegNum, q ≠ rD → q ≠ rS → t.x.read q = s.x.read q))

/-- For a nonzero operand and a destination that is not part of it (and rS even, for NL), each completes: the operand
is shifted left by the least k that makes its first bit 1, x[rD] is k, every flag is unstated (free under havoc);
no other register, no memory and nothing else changes; pc advances by 2. Which register is the source is the
spec's decision D24. Rests on 45_single_operand.md section 2 (decisions D9, D24, D25, D10). -/
def Obligations.NormalizeWordAndLong : Prop :=
  (∀ (rD rS : RegNum) (s : State), rD ≠ rS → s.x.read rS ≠ 0 → s.pc.toNat + 2 < s.addrLimit →
    ∃ t k, exec (.n rD rS) s = .next t ∧
      t = { s with x := t.x, sw := t.sw, draws := t.draws, pc := s.pc + 2 } ∧ FlagsAfter s t none none none ∧
      NormalizedBy (s.x.read rS) k ∧ t.x.read rS = s.x.read rS <<< k ∧ (t.x.read rD).toNat = k ∧
      (∀ q : RegNum, q ≠ rD → q ≠ rS → t.x.read q = s.x.read q)) ∧
    (∀ (rD rS : RegNum) (s : State), rS.getLsbD 0 = false → rD ≠ rS → rD ≠ rS + 1 → readPair rS s ≠ 0 →
      s.pc.toNat + 2 < s.addrLimit →
      ∃ t k, exec (.nl rD rS) s = .next t ∧
        t = { s with x := t.x, sw := t.sw, draws := t.draws, pc := s.pc + 2 } ∧ FlagsAfter s t none none none ∧
        NormalizedBy (readPair rS s) k ∧ readPair rS t = readPair rS s <<< k ∧ (t.x.read rD).toNat = k ∧
        (∀ q : RegNum, q ≠ rD → q ≠ rS → q ≠ rS + 1 → t.x.read q = s.x.read q))

/-- For each instruction of the list with its type and function, wherever pc has room: f[r] becomes FpFunc(type,
function, f[r]), an uninterpreted function of the whole register; SW.R is the sign of the result read in that
type, also uninterpreted; SW.C and SW.V are unstated (free under havoc); no other register, no memory and nothing
else changes; pc advances by 2. The statement holds for every choice of the free functions (log entry 4). Rests
on 46_math_functions.md sections 1 and 2 (decisions D10, D26). -/
def Obligations.MathematicalFunctions : Prop :=
  ∀ j ∈ ([(Instr.sinm, FpType.m, FpFn.sin), (Instr.sin, FpType.f, FpFn.sin), (Instr.sind, FpType.d, FpFn.sin),
      (Instr.sinq, FpType.q, FpFn.sin), (Instr.cosm, FpType.m, FpFn.cos), (Instr.cos, FpType.f, FpFn.cos),
      (Instr.cosd, FpType.d, FpFn.cos), (Instr.cosq, FpType.q, FpFn.cos), (Instr.tanm, FpType.m, FpFn.tan),
      (Instr.tan, FpType.f, FpFn.tan), (Instr.tand, FpType.d, FpFn.tan), (Instr.tanq, FpType.q, FpFn.tan),
      (Instr.asnm, FpType.m, FpFn.asn), (Instr.asn, FpType.f, FpFn.asn), (Instr.asnd, FpType.d, FpFn.asn),
      (Instr.asnq, FpType.q, FpFn.asn), (Instr.acsm, FpType.m, FpFn.acs), (Instr.acs, FpType.f, FpFn.acs),
      (Instr.acsd, FpType.d, FpFn.acs), (Instr.acsq, FpType.q, FpFn.acs), (Instr.atnm, FpType.m, FpFn.atn),
      (Instr.atn, FpType.f, FpFn.atn), (Instr.atnd, FpType.d, FpFn.atn), (Instr.atnq, FpType.q, FpFn.atn),
      (Instr.sinhm, FpType.m, FpFn.sinh), (Instr.sinh, FpType.f, FpFn.sinh), (Instr.sinhd, FpType.d, FpFn.sinh),
      (Instr.sinhq, FpType.q, FpFn.sinh), (Instr.coshm, FpType.m, FpFn.cosh), (Instr.cosh, FpType.f, FpFn.cosh),
      (Instr.coshd, FpType.d, FpFn.cosh), (Instr.coshq, FpType.q, FpFn.cosh), (Instr.tanhm, FpType.m, FpFn.tanh),
      (Instr.tanh, FpType.f, FpFn.tanh), (Instr.tanhd, FpType.d, FpFn.tanh), (Instr.tanhq, FpType.q, FpFn.tanh),
      (Instr.asnhm, FpType.m, FpFn.asnh), (Instr.asnh, FpType.f, FpFn.asnh), (Instr.asnhd, FpType.d, FpFn.asnh),
      (Instr.asnhq, FpType.q, FpFn.asnh), (Instr.acshm, FpType.m, FpFn.acsh), (Instr.acsh, FpType.f, FpFn.acsh),
      (Instr.acshd, FpType.d, FpFn.acsh), (Instr.acshq, FpType.q, FpFn.acsh), (Instr.atnhm, FpType.m, FpFn.atnh),
      (Instr.atnh, FpType.f, FpFn.atnh), (Instr.atnhd, FpType.d, FpFn.atnh), (Instr.atnhq, FpType.q, FpFn.atnh),
      (Instr.sqrm, FpType.m, FpFn.sqr), (Instr.sqr, FpType.f, FpFn.sqr), (Instr.sqrd, FpType.d, FpFn.sqr),
      (Instr.sqrq, FpType.q, FpFn.sqr), (Instr.qbrm, FpType.m, FpFn.qbr), (Instr.qbr, FpType.f, FpFn.qbr),
      (Instr.qbrd, FpType.d, FpFn.qbr), (Instr.qbrq, FpType.q, FpFn.qbr), (Instr.logm, FpType.m, FpFn.log),
      (Instr.log, FpType.f, FpFn.log), (Instr.logd, FpType.d, FpFn.log), (Instr.logq, FpType.q, FpFn.log),
      (Instr.expm, FpType.m, FpFn.exp), (Instr.exp, FpType.f, FpFn.exp), (Instr.expd, FpType.d, FpFn.exp),
      (Instr.expq, FpType.q, FpFn.exp)] :
      List ((RegNum → Instr) × FpType × FpFn)),
    ∀ (r : RegNum) (s : State), s.pc.toNat + 2 < s.addrLimit →
      ∃ t, exec (j.1 r) s = .next t ∧
        t = { s with
          f := s.f.write r (Config.fpImage j.2.1 j.2.2 (s.f.read r))
          sw := t.sw
          draws := t.draws
          pc := s.pc + 2 } ∧
        FlagsAfter s t none none (some (fSign j.2.1 (t.f.read r)))

/-- Wherever pc has room, SGNQ r, encoded 0o1366r0, makes f[r] the image of zero, one or minus one as f[r] was zero,
positive or negative; the three images have those signs themselves; SW.R is the sign of the argument, SW.C and
SW.V are unstated (free under havoc); no other register, no memory and nothing else changes; pc advances by 2. It
holds for every choice of the free images and signs. States R390. -/
def Obligations.SignOfAQuad : Prop :=
  fSign .q qZero = .zero ∧ fSign .q qOne = .pos ∧ fSign .q qMinusOne = .neg ∧
    ∀ (r : RegNum) (s : State) (y : Quad), s.pc.toNat + 2 < s.addrLimit →
      y = (match fSign .q (s.f.read r) with
        | .zero => qZero
        | .pos => qOne
        | .neg => qMinusOne) →
      ∃ t, exec (.sgnq r) s = .next t ∧
        t = { s with f := s.f.write r (y), sw := t.sw, draws := t.draws, pc := s.pc + 2 } ∧
        FlagsAfter s t none none (some (fSign .q (s.f.read r))) ∧
        encode s.params.esLayout .normal (.sgnq r) = [0o136600#16 ||| (r.setWidth 16 <<< 3)]

/-- Wherever pc has room each completes: f[r] becomes QZERO (CLRQ); an image of the opposite sign class (NEGQ), and
for an ordinary image a second NEGQ gives it back; what NEGQ gives if f[r] is negative and f[r] itself otherwise
(ABSQ). SW.R is the sign of the result, SW.C and SW.V unstated (free under havoc); no other register, no memory
and nothing else changes; pc advances by 2. Which images but QZERO are ordinary is free; it holds for every
choice of the free images and signs (log entry 4). Rests on 46_math_functions.md section 3 (CLRQ, ABSQ, NEGQ;
decision D26). -/
def Obligations.ClearNegateAndAbsoluteQuad : Prop :=
  ∃ negated : Quad → Quad,
    (∀ a, fSign .q (negated a) =
      match fSign .q a with
      | .neg => .pos
      | .zero => .zero
      | .pos => .neg) ∧
    (∀ a, qOrdinary a = true → negated (negated a) = a) ∧
    ∀ (r : RegNum) (s : State), s.pc.toNat + 2 < s.addrLimit →
      (∃ t, exec (.clrq r) s = .next t ∧
        t = { s with f := s.f.write r (qZero), sw := t.sw, draws := t.draws, pc := s.pc + 2 } ∧
        FlagsAfter s t none none (some (.zero))) ∧
      (∃ t, exec (.negq r) s = .next t ∧
        t = { s with f := s.f.write r (negated (s.f.read r)), sw := t.sw, draws := t.draws, pc := s.pc + 2 } ∧
        FlagsAfter s t none none (some (fSign .q (negated (s.f.read r))))) ∧
      ∀ y, y = (if fSign .q (s.f.read r) = .neg then negated (s.f.read r) else s.f.read r) →
        ∃ t, exec (.absq r) s = .next t ∧
        t = { s with f := s.f.write r (y), sw := t.sw, draws := t.draws, pc := s.pc + 2 } ∧
        FlagsAfter s t none none (some (fSign .q y))

/-- For every long shift (whatever its count), CLRL, ABSL, INVL, NEGL and NL (whatever its destination) and every odd
operand register, the outcome is the fault reservedOperand naming the instruction and the register, in every
state, also where NL has another operand without meaning (the order is the model's choice, log entry 24). That an
odd register has no meaning is the spec's decision D9. Rests on 10_state.md section 2 (long operands; decision
D9); 43_shifts.md section 2; 45_single_operand.md section 1. -/
def Obligations.OddLongRegistersStop : Prop :=
  ∀ (r rD : RegNum) (n : BitVec 6) (s : State), r.getLsbD 0 = true →
    ∀ i ∈ ([.shll r n, .shrl r n, .asrl r n, .roll r n, .rorl r n, .rlcl r n, .rrcl r n, .clrl r, .absl r, .invl r,
      .negl r, .nl rD r] : List Instr),
      exec i s = .fault (.reservedOperand i (.oddLongRegister r))

/-- In every state, each of the twelve multiple-register forms with r1 above r2 answers the fault reservedOperand
with the instruction and the range, and a POP of base registers with r1 zero answers reservedOperand for the
stack pointer. Both are the spec's decision D17. Rests on 40_multiple_register.md sections 1 and 3 (decision
D17). -/
def Obligations.RangesWithoutMeaningStop : Prop :=
  (∀ (r1 r2 rB : RegNum) (addr : Half) (s : State), r2 < r1 →
    ∀ i ∈ ([.lmu r1 r2 rB addr, .stmu r1 r2 rB addr, .lmubr r1 r2 rB addr, .stmubr r1 r2 rB addr,
      .lmuq r1 r2 rB addr, .stmuq r1 r2 rB addr, .lmuPop r1 r2, .stmuPush r1 r2, .lmubrPop r1 r2, .stmubrPush r1 r2,
      .lmuqPop r1 r2, .stmuqPush r1 r2] : List Instr),
      exec i s = .fault (.reservedOperand i (.descendingRange r1 r2))) ∧
    (∀ (r2 : RegNum) (s : State),
      exec (.lmubrPop 0 r2) s = .fault (.reservedOperand (.lmubrPop 0 r2) (.popsStackPointer r2)))

/-- In every state: ESL and ESR with rD 7 answer pairPastLast, and with another rD and a count above 32
countAboveField; NB, NH, N and NL (rS even) whose destination is the source, or for NL its second register,
answer normalizeOverlap; with other registers and a zero operand they answer normalizeZero; each names the
instruction. The stops are the spec's decisions D20 and D25; which of two is reported is the model's choice (log
entry 24). Rests on 42_extensible_shift.md section 1 (validity; decision D20); 45_single_operand.md section 2
(zero source and overlap; decision D25). -/
def Obligations.ShiftAndNormalizeOperandsWithoutMeaningStop : Prop :=
  (∀ (rS : RegNum) (conn : BitVec 4) (n : BitVec 6) (s : State),
    exec (.esl 7 rS conn n) s = .fault (.reservedOperand (.esl 7 rS conn n) .pairPastLast) ∧
      exec (.esr 7 rS conn n) s = .fault (.reservedOperand (.esr 7 rS conn n) .pairPastLast)) ∧
    (∀ (rD rS : RegNum) (conn : BitVec 4) (n : BitVec 6) (s : State), rD ≠ 7 → 32 < n.toNat →
      exec (.esl rD rS conn n) s = .fault (.reservedOperand (.esl rD rS conn n) (.countAboveField n)) ∧
        exec (.esr rD rS conn n) s = .fault (.reservedOperand (.esr rD rS conn n) (.countAboveField n))) ∧
    (∀ (r : RegNum) (s : State), ∀ i ∈ ([.nb r r, .nh r r, .n r r] : List Instr),
      exec i s = .fault (.reservedOperand i (.normalizeOverlap r r))) ∧
    (∀ (rD rS : RegNum) (s : State), rS.getLsbD 0 = false →
      (rD = rS → exec (.nl rD rS) s = .fault (.reservedOperand (.nl rD rS) (.normalizeOverlap rD rS))) ∧
        (rD = rS + 1 → exec (.nl rD rS) s = .fault (.reservedOperand (.nl rD rS) (.normalizeOverlap rD (rS + 1)))) ∧
        (rD ≠ rS → rD ≠ rS + 1 → readPair rS s = 0 →
          exec (.nl rD rS) s = .fault (.reservedOperand (.nl rD rS) (.normalizeZero rS)))) ∧
    (∀ (rD rS : RegNum) (s : State), rD ≠ rS →
      ((s.x.read rS).setWidth 8 = 0#8 → exec (.nb rD rS) s = .fault (.reservedOperand (.nb rD rS) (.normalizeZero rS))) ∧
        ((s.x.read rS).setWidth 16 = 0#16 → exec (.nh rD rS) s = .fault (.reservedOperand (.nh rD rS) (.normalizeZero rS))) ∧
        (s.x.read rS = 0 → exec (.n rD rS) s = .fault (.reservedOperand (.n rD rS) (.normalizeZero rS))))

/-- For each J- and JV- jump of the list, when its status copy meets its condition and its target (direct or indexed)
is odd, the outcome is the fault misalignedTarget with the target; so for JMS with an odd target where the return
address can be saved (in b[rR], or pushed where rR is zero), and for JXH and JXLE whose updated count meets the
compare and whose EA0 is odd. The stop is the spec's decision D19. The other transfers: returns have their own
statement, and a relative target is even where pc is. Rests on 20_memory.md section 3 (instruction alignment;
decision D19); 41_jumps.md sections 1, 2 and 5. -/
def Obligations.JumpsToOddTargetsStop : Prop :=
  (∀ j ∈ ([(Instr.jl, Cond.low), (Instr.je, Cond.equal), (Instr.jle, Cond.lowOrEqual), (Instr.jh, Cond.high),
      (Instr.jne, Cond.notEqual), (Instr.jhe, Cond.highOrEqual), (Instr.jnv, Cond.noOverflow), (Instr.jv, Cond.overflow),
      (Instr.jc, Cond.carry), (Instr.jnc, Cond.noCarry), (Instr.jmp, Cond.always)] :
      List ((RegNum → RegNum → Half → Instr) × Cond)),
    ∀ (rX rB : RegNum) (addr : Half) (s : State) (a : Addr), condHolds j.2 s.sw = true →
      JumpsTo s rX rB addr a → a.getLsbD 0 = true → exec (j.1 rX rB addr) s = .fault (.misalignedTarget a)) ∧
    (∀ j ∈ ([(Instr.jvl, Cond.low), (Instr.jve, Cond.equal), (Instr.jvle, Cond.lowOrEqual), (Instr.jvh, Cond.high),
      (Instr.jvne, Cond.notEqual), (Instr.jvhe, Cond.highOrEqual), (Instr.jvnv, Cond.noOverflow), (Instr.jvv, Cond.overflow),
      (Instr.jvc, Cond.carry), (Instr.jvnc, Cond.noCarry)] :
      List ((RegNum → RegNum → Half → Instr) × Cond)),
      ∀ (rX rB : RegNum) (addr : Half) (s : State) (a : Addr), condHolds j.2 s.ssw = true →
        JumpsTo s rX rB addr a → a.getLsbD 0 = true → exec (j.1 rX rB addr) s = .fault (.misalignedTarget a)) ∧
    (∀ (rR rX rB : RegNum) (addr : Half) (s : State) (a : Addr), s.pc.toNat + 4 < s.addrLimit →
      (rR = 0 → (s.b.read 0).toNat + s.addrBytes < s.addrLimit ∧ ClearOfText s (s.b.read 0).toNat s.addrBytes) →
      JumpsTo s rX rB addr a → a.getLsbD 0 = true → exec (.jms rR rX rB addr) s = .fault (.misalignedTarget a)) ∧
    (∀ (cR lR rB : RegNum) (addr : Half) (s : State) (x : RegFile 32), (ea0 rB addr s).getLsbD 0 = true →
      (x = s.x.write cR (s.x.read cR - 1) → (x.read lR).toInt < (x.read cR).toInt →
        exec (.jxh cR lR rB addr) s = .fault (.misalignedTarget (ea0 rB addr s))) ∧
        (x = s.x.write cR (s.x.read cR + 1) → (x.read cR).toInt ≤ (x.read lR).toInt →
          exec (.jxle cR lR rB addr) s = .fault (.misalignedTarget (ea0 rB addr s))))

/-- An access past the end of the address space answers addressWrap with its address; within it, a load answers
unmappedAccess with its first unsupplied byte and a store storeToText with its first byte of program text; of a
range, at the first element that cannot be moved, its address a sum modulo 2^ADDR_BITS. For every supplementary
and multiple-register load and store, every POP and PUSH, the return address that JMS and LBRS push, the jump
word of an indexed JMS, J- or JV- jump that is taken, and the word a return pops. The stops are the spec's
decisions D28 and D29. Rests on 00_scope.md section 4 (modular address arithmetic); 20_memory.md sections 1, 2
and 5 (decision D28); 40_multiple_register.md sections 1 to 4 (decision D28); 41_jumps.md sections 1, 2 and 6;
44_branch_return.md section 2; 60_exceptions.md section 1 (decision D29). -/
def Obligations.AccessesThatCannotBeMadeStop : Prop :=
  (∀ (r rB : RegNum) (addr : Half) (s : State) (why : Fault),
    (LoadStops s (ea0 rB addr s).toNat s.addrBytes why →
      ∀ i ∈ ([.slbr r rB addr, .slsb r rB addr, .slpsb r rB addr, .slasb r rB addr] : List Instr),
        exec i s = .fault why) ∧
      (StoreStops s (ea0 rB addr s).toNat s.addrBytes why →
        ∀ i ∈ ([.sstbr r rB addr, .sssb r rB addr, .sspsb r rB addr, .ssasb r rB addr] : List Instr),
          exec i s = .fault why)) ∧
    (∀ (r1 r2 rB : RegNum) (addr : Half) (s : State) (why : Fault), r1 ≤ r2 → 
      RangeLoadStops s (ea0 rB addr s).toNat 4 (rangeCount r1 r2) why →
      exec (.lmu r1 r2 rB addr) s = .fault why) ∧
    (∀ (r1 r2 rB : RegNum) (addr : Half) (s : State) (why : Fault), r1 ≤ r2 → 
      RangeLoadStops s (ea0 rB addr s).toNat s.addrBytes (rangeCount r1 r2) why →
      exec (.lmubr r1 r2 rB addr) s = .fault why) ∧
    (∀ (r1 r2 rB : RegNum) (addr : Half) (s : State) (why : Fault), r1 ≤ r2 → 
      RangeLoadStops s (ea0 rB addr s).toNat 16 (rangeCount r1 r2) why →
      exec (.lmuq r1 r2 rB addr) s = .fault why) ∧
    (∀ (r1 r2 rB : RegNum) (addr : Half) (s : State) (why : Fault), r1 ≤ r2 → 
      RangeStoreStops s (ea0 rB addr s).toNat 4 (rangeCount r1 r2) why →
      exec (.stmu r1 r2 rB addr) s = .fault why) ∧
    (∀ (r1 r2 rB : RegNum) (addr : Half) (s : State) (why : Fault), r1 ≤ r2 → 
      RangeStoreStops s (ea0 rB addr s).toNat s.addrBytes (rangeCount r1 r2) why →
      exec (.stmubr r1 r2 rB addr) s = .fault why) ∧
    (∀ (r1 r2 rB : RegNum) (addr : Half) (s : State) (why : Fault), r1 ≤ r2 → 
      RangeStoreStops s (ea0 rB addr s).toNat 16 (rangeCount r1 r2) why →
      exec (.stmuq r1 r2 rB addr) s = .fault why) ∧
    (∀ (r1 r2 : RegNum) (s : State) (why : Fault), r1 ≤ r2 → rangeCount r1 r2 * 4 ≤ (s.b.read 0).toNat →
      RangeLoadStops s ((s.b.read 0).toNat - rangeCount r1 r2 * 4) 4 (rangeCount r1 r2) why →
      exec (.lmuPop r1 r2) s = .fault why) ∧
    (∀ (r1 r2 : RegNum) (s : State) (why : Fault), r1 ≤ r2 → r1 ≠ 0 → rangeCount r1 r2 * s.addrBytes ≤ (s.b.read 0).toNat →
      RangeLoadStops s ((s.b.read 0).toNat - rangeCount r1 r2 * s.addrBytes) s.addrBytes (rangeCount r1 r2) why →
      exec (.lmubrPop r1 r2) s = .fault why) ∧
    (∀ (r1 r2 : RegNum) (s : State) (why : Fault), r1 ≤ r2 → rangeCount r1 r2 * 16 ≤ (s.b.read 0).toNat →
      RangeLoadStops s ((s.b.read 0).toNat - rangeCount r1 r2 * 16) 16 (rangeCount r1 r2) why →
      exec (.lmuqPop r1 r2) s = .fault why) ∧
    (∀ (r1 r2 : RegNum) (s : State) (why : Fault), r1 ≤ r2 → 
      RangeStoreStops s (s.b.read 0).toNat 4 (rangeCount r1 r2) why →
      exec (.stmuPush r1 r2) s = .fault why) ∧
    (∀ (r1 r2 : RegNum) (s : State) (why : Fault), r1 ≤ r2 → 
      RangeStoreStops s (s.b.read 0).toNat s.addrBytes (rangeCount r1 r2) why →
      exec (.stmubrPush r1 r2) s = .fault why) ∧
    (∀ (r1 r2 : RegNum) (s : State) (why : Fault), r1 ≤ r2 → 
      RangeStoreStops s (s.b.read 0).toNat 16 (rangeCount r1 r2) why →
      exec (.stmuqPush r1 r2) s = .fault why) ∧
    (∀ (rX rB : RegNum) (addr disp : Half) (s : State) (a : Addr) (why : Fault), s.pc.toNat + 4 < s.addrLimit →
      StoreStops s (s.b.read 0).toNat s.addrBytes why →
      (JumpsTo s rX rB addr a → exec (.jms 0 rX rB addr) s = .fault why) ∧ exec (.lbrs 0 disp) s = .fault why) ∧
    (∀ (rR rX rB : RegNum) (addr : Half) (s : State) (why : Fault), rX ≠ 0 →
      LoadStops s (ea1 rX rB addr s).toNat s.addrBytes why →
      exec (.jms rR rX rB addr) s = .fault why ∧
        (∀ j ∈ ([(Instr.jl, Cond.low), (Instr.je, Cond.equal), (Instr.jle, Cond.lowOrEqual), (Instr.jh, Cond.high),
      (Instr.jne, Cond.notEqual), (Instr.jhe, Cond.highOrEqual), (Instr.jnv, Cond.noOverflow), (Instr.jv, Cond.overflow),
      (Instr.jc, Cond.carry), (Instr.jnc, Cond.noCarry), (Instr.jmp, Cond.always)] :
      List ((RegNum → RegNum → Half → Instr) × Cond)),
          condHolds j.2 s.sw = true → exec (j.1 rX rB addr) s = .fault why) ∧
        (∀ j ∈ ([(Instr.jvl, Cond.low), (Instr.jve, Cond.equal), (Instr.jvle, Cond.lowOrEqual), (Instr.jvh, Cond.high),
      (Instr.jvne, Cond.notEqual), (Instr.jvhe, Cond.highOrEqual), (Instr.jvnv, Cond.noOverflow), (Instr.jvv, Cond.overflow),
      (Instr.jvc, Cond.carry), (Instr.jvnc, Cond.noCarry)] :
      List ((RegNum → RegNum → Half → Instr) × Cond)),
          condHolds j.2 s.ssw = true → exec (j.1 rX rB addr) s = .fault why)) ∧
    (∀ j ∈ ([(Instr.rl, Cond.low), (Instr.re, Cond.equal), (Instr.rle, Cond.lowOrEqual), (Instr.rh, Cond.high),
      (Instr.rne, Cond.notEqual), (Instr.rhe, Cond.highOrEqual), (Instr.rnv, Cond.noOverflow), (Instr.rv, Cond.overflow),
      (Instr.rc, Cond.carry), (Instr.rnc, Cond.noCarry), (Instr.rss, Cond.always)] :
      List (Instr × Cond)),
      ∀ (s : State) (why : Fault), condHolds j.2 s.sw = true → s.addrBytes ≤ (s.b.read 0).toNat →
        LoadStops s ((s.b.read 0).toNat - s.addrBytes) s.addrBytes why → exec j.1 s = .fault why)

/-- Every instruction that goes on in sequence wherever pc has room answers addressWrap with the next address where
pc has none; JMS (its target found) and LBRS do so for the return address. Each branch and long branch that is
taken, LBXH, LBXLE and LBRS included, answers addressWrap with a target below zero or past the end. Each POP of
more bytes than b[0] counts does so with the negative address, each PUSH that would raise b[0] past the last
address with the new stack pointer, or before that as its first element that cannot be stored does, and the
pushes of JMS and LBRS with the address of their word where it crosses the end, else with the new stack pointer.
The spec's decision D28; that the next address is tested only where it is used is log entry 7, and the order of
the stops log entry 18. Rests on 10_state.md section 5 (decision D28); 40_multiple_register.md sections 1 and 3
(decision D28); 41_jumps.md sections 1, 2, 5 and 6 (decision D28); 44_branch_return.md sections 1 and 2. -/
def Obligations.LeavingTheAddressSpaceStops : Prop :=
  (∀ (i : Instr) (s : State), s.addrLimit ≤ s.pc.toNat + i.length →
    (∀ p : Addr, p.getLsbD 0 = false → p.toNat + i.length < s.addrLimit →
      ∃ t, exec i { s with pc := p } = .next t ∧ t.pc.toNat = p.toNat + i.length) →
    exec i s = .fault (.addressWrap (s.pc.toNat + i.length : Nat))) ∧
    (∀ (rR rX rB : RegNum) (addr disp : Half) (s : State) (a : Addr), s.addrLimit ≤ s.pc.toNat + 4 →
      (JumpsTo s rX rB addr a → exec (.jms rR rX rB addr) s = .fault (.addressWrap (s.pc.toNat + 4 : Nat))) ∧
        exec (.lbrs rR disp) s = .fault (.addressWrap (s.pc.toNat + 4 : Nat))) ∧
    (∀ j ∈ ([(Instr.bl, Cond.low), (Instr.be, Cond.equal), (Instr.ble, Cond.lowOrEqual), (Instr.bh, Cond.high),
      (Instr.bne, Cond.notEqual), (Instr.bhe, Cond.highOrEqual), (Instr.bnv, Cond.noOverflow), (Instr.bv, Cond.overflow),
      (Instr.bc, Cond.carry), (Instr.bnc, Cond.noCarry), (Instr.bra, Cond.always)] :
      List ((BitVec 6 → Instr) × Cond)),
      ∀ (disp : BitVec 6) (s : State) (a : Int), condHolds j.2 s.sw = true → a = s.pc.toNat + 2 + 2 * disp.toInt →
        a < 0 ∨ s.addrLimit ≤ a → exec (j.1 disp) s = .fault (.addressWrap a)) ∧
    (∀ j ∈ ([(Instr.lbl, Cond.low), (Instr.lbe, Cond.equal), (Instr.lble, Cond.lowOrEqual), (Instr.lbh, Cond.high),
      (Instr.lbne, Cond.notEqual), (Instr.lbhe, Cond.highOrEqual), (Instr.lbnv, Cond.noOverflow), (Instr.lbv, Cond.overflow),
      (Instr.lbc, Cond.carry), (Instr.lbnc, Cond.noCarry), (Instr.lbra, Cond.always)] :
      List ((Half → Instr) × Cond)),
      ∀ (disp : Half) (s : State) (a : Int), condHolds j.2 s.sw = true → a = s.pc.toNat + 4 + 2 * disp.toInt →
        a < 0 ∨ s.addrLimit ≤ a → exec (j.1 disp) s = .fault (.addressWrap a)) ∧
    (∀ (cR lR : RegNum) (disp : Half) (s : State) (x : RegFile 32) (a : Int), a = s.pc.toNat + 4 + 2 * disp.toInt →
      a < 0 ∨ s.addrLimit ≤ a →
      (x = s.x.write cR (s.x.read cR - 1) → (x.read lR).toInt < (x.read cR).toInt →
        exec (.lbxh cR lR disp) s = .fault (.addressWrap a)) ∧
        (x = s.x.write cR (s.x.read cR + 1) → (x.read cR).toInt ≤ (x.read lR).toInt →
          exec (.lbxle cR lR disp) s = .fault (.addressWrap a))) ∧
    (∀ (rR : RegNum) (disp : Half) (s : State) (a : Int), a = s.pc.toNat + 4 + 2 * disp.toInt →
      a < 0 ∨ s.addrLimit ≤ a → s.pc.toNat + 4 < s.addrLimit →
      (rR = 0 → (s.b.read 0).toNat + s.addrBytes < s.addrLimit ∧ ClearOfText s (s.b.read 0).toNat s.addrBytes) →
      exec (.lbrs rR disp) s = .fault (.addressWrap a)) ∧
    (∀ (r1 r2 : RegNum) (s : State), r1 ≤ r2 → (s.b.read 0).toNat < rangeCount r1 r2 * 4 →
      exec (.lmuPop r1 r2) s = .fault (.addressWrap ((s.b.read 0).toNat - (rangeCount r1 r2 * 4 : Nat)))) ∧
    (∀ (r1 r2 : RegNum) (s : State), r1 ≠ 0 → r1 ≤ r2 → (s.b.read 0).toNat < rangeCount r1 r2 * s.addrBytes →
      exec (.lmubrPop r1 r2) s = .fault (.addressWrap ((s.b.read 0).toNat - (rangeCount r1 r2 * s.addrBytes : Nat)))) ∧
    (∀ (r1 r2 : RegNum) (s : State), r1 ≤ r2 → (s.b.read 0).toNat < rangeCount r1 r2 * 16 →
      exec (.lmuqPop r1 r2) s = .fault (.addressWrap ((s.b.read 0).toNat - (rangeCount r1 r2 * 16 : Nat)))) ∧
    (∀ (r1 r2 : RegNum) (s : State), r1 ≤ r2 → s.addrLimit ≤ (s.b.read 0).toNat + rangeCount r1 r2 * 4 →
      (RangeClear s (s.b.read 0).toNat 4 (rangeCount r1 r2) →
        exec (.stmuPush r1 r2) s = .fault (.addressWrap ((s.b.read 0).toNat + rangeCount r1 r2 * 4 : Nat))) ∧
        ∀ why, RangeStoreStops s (s.b.read 0).toNat 4 (rangeCount r1 r2) why →
          exec (.stmuPush r1 r2) s = .fault why) ∧
    (∀ (r1 r2 : RegNum) (s : State), r1 ≤ r2 → s.addrLimit ≤ (s.b.read 0).toNat + rangeCount r1 r2 * s.addrBytes →
      (RangeClear s (s.b.read 0).toNat s.addrBytes (rangeCount r1 r2) →
        exec (.stmubrPush r1 r2) s = .fault (.addressWrap ((s.b.read 0).toNat + rangeCount r1 r2 * s.addrBytes : Nat))) ∧
        ∀ why, RangeStoreStops s (s.b.read 0).toNat s.addrBytes (rangeCount r1 r2) why →
          exec (.stmubrPush r1 r2) s = .fault why) ∧
    (∀ (r1 r2 : RegNum) (s : State), r1 ≤ r2 → s.addrLimit ≤ (s.b.read 0).toNat + rangeCount r1 r2 * 16 →
      (RangeClear s (s.b.read 0).toNat 16 (rangeCount r1 r2) →
        exec (.stmuqPush r1 r2) s = .fault (.addressWrap ((s.b.read 0).toNat + rangeCount r1 r2 * 16 : Nat))) ∧
        ∀ why, RangeStoreStops s (s.b.read 0).toNat 16 (rangeCount r1 r2) why →
          exec (.stmuqPush r1 r2) s = .fault why) ∧
    (∀ (rX rB : RegNum) (addr disp : Half) (s : State) (a : Addr) (m : Nat), s.pc.toNat + 4 < s.addrLimit →
      (s.b.read 0).toNat ≤ s.addrLimit → s.addrLimit ≤ (s.b.read 0).toNat + s.addrBytes →
      m = (s.addrLimit - (s.b.read 0).toNat) / s.addrBytes * s.addrBytes → ClearOfText s (s.b.read 0).toNat m →
      (JumpsTo s rX rB addr a → exec (.jms 0 rX rB addr) s = .fault (.addressWrap ((s.b.read 0).toNat + m : Nat))) ∧
        exec (.lbrs 0 disp) s = .fault (.addressWrap ((s.b.read 0).toNat + m : Nat)))

/-- In a run that has not ended, in a mode other than Compact: where the first halfword passes the end of the address
space the step answers addressWrap with pc, and where it lies within it and one of its two bytes was never
supplied, unmappedAccess with the first such address; where the first halfword is supplied and the decode
procedure reads a second, the same for the second halfword at pc + 2, whatever the two would decode to. When a
second halfword is read is log entry 11. Rests on 20_memory.md section 1 (fetch; decision D28); 30_encoding.md
section 8 (decode procedure); 60_exceptions.md section 1 (order of refusals, unsupplied bytes; decisions D27,
D29). -/
def Obligations.FetchesThatCannotBeMadeStop : Prop :=
  (∀ (s : State) (why : Fault), s.finished = false → s.params.mode ≠ .compact →
    LoadStops s s.pc.toNat 2 why → step s = .fault why) ∧
    (∀ (s : State) (h : Half) (why : Fault), s.finished = false → s.params.mode ≠ .compact →
      s.pc.toNat + 2 ≤ s.addrLimit → Holds s.mem s.pc.toNat 2 h.toNat → needsSecond s.params.mode h = true →
      LoadStops s (s.pc.toNat + 2) 2 why → step s = .fault why)
end

