-- ==== Sys2Proof/Laws/Encoding.lean ====
section
/-! SUPPORT. The fields of assembled halfwords, and the byte decoder on one instruction's halfwords. -/

namespace Sys2Proof

theorem toNat_append_add {v w : Nat} (x : BitVec v) (y : BitVec w) :
    (x ++ y).toNat = x.toNat * 2 ^ w + y.toNat := by
  rw [BitVec.toNat_append, ← Nat.shiftLeft_add_eq_or_of_lt y.isLt, Nat.shiftLeft_eq]

/-! ### First halfwords -/

theorem firstHalf_toNat (p : BitVec 3) (rest : BitVec 4) (f2 f1 f0 : BitVec 3) :
    (firstHalf p rest f2 f1 f0).toNat =
      p.toNat * 2 ^ 13 + rest.toNat * 2 ^ 9 + f2.toNat * 2 ^ 6 + f1.toNat * 2 ^ 3 + f0.toNat := by
  simp only [firstHalf, toNat_append_add]
  omega

@[simp] theorem opPrefix_firstHalf (p : BitVec 3) (rest : BitVec 4) (f2 f1 f0 : BitVec 3) :
    opPrefix (firstHalf p rest f2 f1 f0) = p := by
  apply BitVec.eq_of_toNat_eq
  simp only [opPrefix, BitVec.extractLsb'_toNat, firstHalf_toNat, Nat.shiftRight_eq_div_pow]
  omega

@[simp] theorem opRest_firstHalf (p : BitVec 3) (rest : BitVec 4) (f2 f1 f0 : BitVec 3) :
    opRest (firstHalf p rest f2 f1 f0) = rest := by
  apply BitVec.eq_of_toNat_eq
  simp only [opRest, BitVec.extractLsb'_toNat, firstHalf_toNat, Nat.shiftRight_eq_div_pow]
  omega

@[simp] theorem digit2_firstHalf (p : BitVec 3) (rest : BitVec 4) (f2 f1 f0 : BitVec 3) :
    digit2 (firstHalf p rest f2 f1 f0) = f2 := by
  apply BitVec.eq_of_toNat_eq
  simp only [digit2, BitVec.extractLsb'_toNat, firstHalf_toNat, Nat.shiftRight_eq_div_pow]
  omega

@[simp] theorem digit1_firstHalf (p : BitVec 3) (rest : BitVec 4) (f2 f1 f0 : BitVec 3) :
    digit1 (firstHalf p rest f2 f1 f0) = f1 := by
  apply BitVec.eq_of_toNat_eq
  simp only [digit1, BitVec.extractLsb'_toNat, firstHalf_toNat, Nat.shiftRight_eq_div_pow]
  omega

@[simp] theorem digit0_firstHalf (p : BitVec 3) (rest : BitVec 4) (f2 f1 f0 : BitVec 3) :
    digit0 (firstHalf p rest f2 f1 f0) = f0 := by
  apply BitVec.eq_of_toNat_eq
  simp only [digit0, BitVec.extractLsb'_toNat, firstHalf_toNat, Nat.shiftRight_eq_div_pow]
  omega

/-- A halfword is its fields, put together. -/
theorem firstHalf_fields (h : Half) :
    firstHalf (opPrefix h) (opRest h) (digit2 h) (digit1 h) (digit0 h) = h := by
  apply BitVec.eq_of_toNat_eq
  simp only [firstHalf_toNat, opPrefix, opRest, digit2, digit1, digit0, BitVec.extractLsb'_toNat,
    Nat.shiftRight_eq_div_pow]
  have := h.isLt
  omega

/-! ### Second halfwords -/

theorem addressHalf_toNat (addr : Half) (e : Bool) :
    (addressHalf addr e).toNat = addr.toNat / 2 * 2 + e.toNat := by
  simp only [addressHalf, toNat_append_add, BitVec.extractLsb'_toNat, Nat.shiftRight_eq_div_pow]
  have := addr.isLt
  cases e <;> simp <;> omega

theorem addressField_addressHalf {addr : Half} (e : Bool) (h : addr.getLsbD 0 = false) :
    addressField (addressHalf addr e) = addr := by
  apply BitVec.eq_of_toNat_eq
  simp only [addressField, toNat_append_add, BitVec.extractLsb'_toNat, Nat.shiftRight_eq_div_pow,
    addressHalf_toNat]
  have := addr.isLt
  have h2 : addr.toNat % 2 = 0 := by simpa [BitVec.getLsbD, Nat.testBit_zero] using h
  cases e <;> simp <;> omega

@[simp] theorem extensionBit_addressHalf (addr : Half) (e : Bool) :
    extensionBit (addressHalf addr e) = e := by
  simp only [extensionBit, BitVec.getLsbD, Nat.testBit_zero, addressHalf_toNat]
  cases e <;> simp

theorem addressHalf_bit1 (addr : Half) (e : Bool) :
    (addressHalf addr e).getLsbD 1 = addr.getLsbD 1 := by
  simp only [BitVec.getLsbD, Nat.testBit_succ, Nat.testBit_zero, addressHalf_toNat]
  cases e
  · simp
  · have : (addr.toNat / 2 * 2 + 1) / 2 = addr.toNat / 2 := by omega
    simp [this]

/-- A second halfword is its address and its extension bit, put together. -/
theorem addressHalf_fields (s : Half) : addressHalf (addressField s) (extensionBit s) = s := by
  apply BitVec.eq_of_toNat_eq
  simp only [addressHalf_toNat, addressField, extensionBit, toNat_append_add, BitVec.extractLsb'_toNat,
    Nat.shiftRight_eq_div_pow, BitVec.getLsbD, Nat.testBit_zero]
  have := s.isLt
  rcases Nat.mod_two_eq_zero_or_one s.toNat with h | h <;> simp [h] <;> omega

theorem addressField_even (s : Half) : (addressField s).getLsbD 0 = false := by
  simp only [addressField, BitVec.getLsbD, toNat_append_add, Nat.testBit_zero]
  simp

/-! ### Bytes -/

@[simp] theorem halfOfBytes_bytes (h : Half) : halfOfBytes h.highByte h.lowByte = h := by
  apply BitVec.eq_of_toNat_eq
  simp only [halfOfBytes, Half.highByte, Half.lowByte, toNat_append_add, BitVec.extractLsb'_toNat,
    Nat.shiftRight_eq_div_pow]
  have := h.isLt
  omega

/-- The byte decoder on the bytes of one halfword, where no second one is read. -/
theorem decodeBytes_short {lay : EsLayout} {m : Mode} {h : Half} (rest : List Byte) (hs : needsSecond m h = false) :
    decodeBytes lay m (([h] : List Half).flatMap (fun h => [h.highByte, h.lowByte]) ++ rest) =
      some (decode lay m h 0#16, rest) := by
  simp [decodeBytes, hs]

/-- The byte decoder on the bytes of two halfwords, where the second one is read. -/
theorem decodeBytes_long {lay : EsLayout} {m : Mode} {h s : Half} (rest : List Byte) (hs : needsSecond m h = true) :
    decodeBytes lay m (([h, s] : List Half).flatMap (fun h => [h.highByte, h.lowByte]) ++ rest) =
      some (decode lay m h s, rest) := by
  simp [decodeBytes, hs]

/-! ### Format ES32 under any layout -/

theorem extract_placed {u : Nat} (x : BitVec u) (a : Nat) (h : a + u ≤ 16) :
    (x.setWidth 16 <<< a).extractLsb' a u = x := by
  ext i hi
  have h1 : a + i < 16 := by omega
  simp [h1, BitVec.getLsbD_eq_getElem, hi]

theorem extract_beside {v : Nat} (y : BitVec v) (a b u : Nat) (h : b + v ≤ a ∨ a + u ≤ b) :
    (y.setWidth 16 <<< b).extractLsb' a u = 0#u := by
  ext i hi
  simp only [BitVec.getElem_extractLsb', BitVec.getLsbD_shiftLeft, BitVec.getLsbD_setWidth, BitVec.getElem_zero]
  rcases h with h | h
  · simp [BitVec.getLsbD_of_ge y (a + i - b) (by omega)]
  · simp [show a + i < b by omega]

theorem extract_or (x y : Half) (a u : Nat) :
    (x ||| y).extractLsb' a u = x.extractLsb' a u ||| y.extractLsb' a u := by
  ext i hi
  simp

theorem firstHalf_or_digits (rest : BitVec 4) (p q : BitVec 3) :
    firstHalf 0b111#3 rest 0#3 0#3 0#3 ||| (p.setWidth 16 <<< 6) ||| (q.setWidth 16 <<< 3) =
      firstHalf 0b111#3 rest p q 0#3 := by
  unfold firstHalf
  apply BitVec.eq_of_getLsbD_eq
  intro i hi
  simp only [BitVec.getLsbD_or, BitVec.getLsbD_append, BitVec.getLsbD_shiftLeft, BitVec.getLsbD_setWidth]
  interval_cases i <;> simp

theorem EsLayout.valid_iff (lay : EsLayout) :
    lay.valid = true ↔
      ((lay.rDAt = 6 ∧ lay.rSAt = 3) ∨ (lay.rDAt = 3 ∧ lay.rSAt = 6)) ∧ 1 ≤ lay.connAt ∧ lay.connAt ≤ 9 ∧
        1 ≤ lay.nAt ∧ lay.nAt ≤ 7 ∧ (lay.connAt + 4 ≤ lay.nAt ∨ lay.nAt + 6 ≤ lay.connAt) ∧
        lay.mustBeZero &&& 0xE001#16 = 0xE001#16 ∧ lay.mustBeZero &&& lay.fieldBits = 0#16 := by
  unfold EsLayout.valid
  simp only [Bool.and_eq_true, Bool.or_eq_true, beq_iff_eq, decide_eq_true_eq, and_assoc]

/-- The bits of an assembled second halfword are field bits. -/
theorem placed_and_fieldBits (lay : EsLayout) (conn : BitVec 4) (n : BitVec 6) :
    ((conn.setWidth 16 <<< lay.connAt) ||| (n.setWidth 16 <<< lay.nAt)) &&& lay.fieldBits =
      (conn.setWidth 16 <<< lay.connAt) ||| (n.setWidth 16 <<< lay.nAt) := by
  have e : ∀ (u a j : Nat) (x : BitVec u) (m : Half), (∀ k, k < u → m.getLsbD k = true) → u ≤ 16 →
      ((x.setWidth 16 <<< a).getLsbD j && (m <<< a).getLsbD j) = (x.setWidth 16 <<< a).getLsbD j := by
    intro u a j x m hm hu
    simp only [BitVec.getLsbD_shiftLeft, BitVec.getLsbD_setWidth]
    by_cases hk : j - a < u
    · simp [hm _ hk]
      tauto
    · simp [BitVec.getLsbD_of_ge x (j - a) (by omega)]
  have h4 := fun j => e 4 lay.connAt j conn 0xF#16 (by decide) (by omega)
  have h6 := fun j => e 6 lay.nAt j n 0x3F#16 (by decide) (by omega)
  apply BitVec.eq_of_getLsbD_eq
  intro j hj
  rw [EsLayout.fieldBits, BitVec.getLsbD_and, BitVec.getLsbD_or, BitVec.getLsbD_or]
  have := h4 j
  have := h6 j
  revert this
  revert this
  cases (BitVec.setWidth 16 conn <<< lay.connAt).getLsbD j <;> cases (BitVec.setWidth 16 n <<< lay.nAt).getLsbD j <;>
    cases (0xF#16 <<< lay.connAt).getLsbD j <;> cases (0x3F#16 <<< lay.nAt).getLsbD j <;> simp

/-- What the encoder makes of an ESL or ESR, the decoder reads back, under every valid layout. -/
theorem decodeExtensible_encodeExtensible {lay : EsLayout} (hl : lay.valid = true) (left : Bool) (rest : BitVec 4)
    (rD rS : RegNum) (conn : BitVec 4) (n : BitVec 6) :
    ∃ p q s, encodeExtensible lay rest rD rS conn n = [firstHalf 0b111#3 rest p q 0#3, s] ∧
      decodeExtensible lay left (firstHalf 0b111#3 rest p q 0#3) s =
        .instr (if left then .esl rD rS conn n else .esr rD rS conn n) := by
  obtain ⟨hr, h1, h2, h3, h4, h5, -, h7⟩ := (EsLayout.valid_iff lay).1 hl
  have hz : ((conn.setWidth 16 <<< lay.connAt) ||| (n.setWidth 16 <<< lay.nAt)) &&& lay.mustBeZero = 0#16 := by
    rw [← placed_and_fieldBits, BitVec.and_assoc, BitVec.and_comm lay.fieldBits, h7, BitVec.and_zero]
  have hc : ((conn.setWidth 16 <<< lay.connAt) ||| (n.setWidth 16 <<< lay.nAt)).extractLsb' lay.connAt 4 = conn := by
    rw [extract_or, extract_placed _ _ (by omega), extract_beside _ _ _ _ (by omega), BitVec.or_zero]
  have hn : ((conn.setWidth 16 <<< lay.connAt) ||| (n.setWidth 16 <<< lay.nAt)).extractLsb' lay.nAt 6 = n := by
    rw [extract_or, extract_placed _ _ (by omega), extract_beside _ _ _ _ (by omega), BitVec.zero_or]
  rcases hr with ⟨e1, e2⟩ | ⟨e1, e2⟩
  · refine ⟨rD, rS, _, by rw [encodeExtensible, e1, e2, firstHalf_or_digits], ?_⟩
    rw [decodeExtensible, if_pos hz, hc, hn, e1, e2]
    have := digit2_firstHalf 0b111#3 rest rD rS 0#3
    have := digit1_firstHalf 0b111#3 rest rD rS 0#3
    simp_all [digit2, digit1]
  · refine ⟨rS, rD, _, by
      rw [encodeExtensible, e1, e2, BitVec.or_assoc, BitVec.or_comm (BitVec.setWidth 16 rD <<< 3), ← BitVec.or_assoc,
        firstHalf_or_digits], ?_⟩
    rw [decodeExtensible, if_pos hz, hc, hn, e1, e2]
    have := digit2_firstHalf 0b111#3 rest rS rD 0#3
    have := digit1_firstHalf 0b111#3 rest rS rD 0#3
    simp_all [digit2, digit1]

theorem place_extracted (s : Half) (a u : Nat) (m : Half) (hm : ∀ k, m.getLsbD k = decide (k < u)) :
    (s.extractLsb' a u).setWidth 16 <<< a = s &&& (m <<< a) := by
  apply BitVec.eq_of_getLsbD_eq
  intro j hj
  simp only [BitVec.getLsbD_shiftLeft, BitVec.getLsbD_setWidth, BitVec.getLsbD_and, BitVec.getLsbD_extractLsb', hm, hj]
  by_cases h1 : j < a
  · simp [h1]
  · by_cases h2 : j - a < u
    · simp [h1, h2, show j - a < 16 by omega, show a + (j - a) = j by omega]
    · simp [h1, h2]

/-- What the decoder reads as an ESL or ESR, the encoder gives back, but for bits the layout gives to no field. -/
theorem encodeExtensible_decoded {lay : EsLayout} (hl : lay.valid = true) (h s : Half) (hp : opPrefix h = 0b111#3)
    (h0 : digit0 h = 0#3) :
    encodeExtensible lay (opRest h) (h.extractLsb' lay.rDAt 3) (h.extractLsb' lay.rSAt 3)
      (s.extractLsb' lay.connAt 4) (s.extractLsb' lay.nAt 6) = [h, s &&& lay.fieldBits] := by
  obtain ⟨hr, -⟩ := (EsLayout.valid_iff lay).1 hl
  have hm4 : ∀ k, (0xF#16).getLsbD k = decide (k < 4) := by
    intro k
    by_cases hk : k < 16
    · interval_cases k <;> rfl
    · simp [BitVec.getLsbD_of_ge (0xF#16) k (by omega)]; omega
  have hm6 : ∀ k, (0x3F#16).getLsbD k = decide (k < 6) := by
    intro k
    by_cases hk : k < 16
    · interval_cases k <;> rfl
    · simp [BitVec.getLsbD_of_ge (0x3F#16) k (by omega)]; omega
  have hs : ((s.extractLsb' lay.connAt 4).setWidth 16 <<< lay.connAt) |||
      ((s.extractLsb' lay.nAt 6).setWidth 16 <<< lay.nAt) = s &&& lay.fieldBits := by
    rw [place_extracted s _ 4 _ hm4, place_extracted s _ 6 _ hm6, EsLayout.fieldBits, BitVec.and_or_distrib_left]
  have hh : firstHalf 0b111#3 (opRest h) (digit2 h) (digit1 h) 0#3 = h := by
    rw [← hp, ← h0]
    exact firstHalf_fields h
  rw [encodeExtensible, hs]
  rcases hr with ⟨e1, e2⟩ | ⟨e1, e2⟩
  · rw [e1, e2, firstHalf_or_digits]
    exact congrArg (fun z => [z, s &&& lay.fieldBits]) hh
  · rw [e1, e2, BitVec.or_assoc, BitVec.or_comm (BitVec.setWidth 16 (h.extractLsb' 3 3) <<< 3), ← BitVec.or_assoc,
      firstHalf_or_digits]
    exact congrArg (fun z => [z, s &&& lay.fieldBits]) hh

end Sys2Proof
end

