-- ==== Sys2Proof/Laws/State.lean ====
section
/-! SUPPORT. One lemma per field per update of the state, and what follows for the derived reads. -/

namespace Sys2Proof.Machine

/-! ### `setX` -/

@[simp] theorem State.setX_x (s : State) (r : RegNum) (v : Word) : (s.setX r v).x = s.x.write r v := rfl
@[simp] theorem State.setX_b (s : State) (r : RegNum) (v : Word) : (s.setX r v).b = s.b := rfl
@[simp] theorem State.setX_f (s : State) (r : RegNum) (v : Word) : (s.setX r v).f = s.f := rfl
@[simp] theorem State.setX_sb (s : State) (r : RegNum) (v : Word) : (s.setX r v).sb = s.sb := rfl
@[simp] theorem State.setX_psb (s : State) (r : RegNum) (v : Word) : (s.setX r v).psb = s.psb := rfl
@[simp] theorem State.setX_asb (s : State) (r : RegNum) (v : Word) : (s.setX r v).asb = s.asb := rfl
@[simp] theorem State.setX_pc (s : State) (r : RegNum) (v : Word) : (s.setX r v).pc = s.pc := rfl
@[simp] theorem State.setX_sw (s : State) (r : RegNum) (v : Word) : (s.setX r v).sw = s.sw := rfl
@[simp] theorem State.setX_ssw (s : State) (r : RegNum) (v : Word) : (s.setX r v).ssw = s.ssw := rfl
@[simp] theorem State.setX_mem (s : State) (r : RegNum) (v : Word) : (s.setX r v).mem = s.mem := rfl
@[simp] theorem State.setX_params (s : State) (r : RegNum) (v : Word) : (s.setX r v).params = s.params := rfl
@[simp] theorem State.setX_draws (s : State) (r : RegNum) (v : Word) : (s.setX r v).draws = s.draws := rfl
@[simp] theorem State.setX_finished (s : State) (r : RegNum) (v : Word) : (s.setX r v).finished = s.finished := rfl
@[simp] theorem State.setX_addrBytes (s : State) (r : RegNum) (v : Word) : (s.setX r v).addrBytes = s.addrBytes := rfl
@[simp] theorem State.setX_addrLimit (s : State) (r : RegNum) (v : Word) : (s.setX r v).addrLimit = s.addrLimit := rfl
@[simp] theorem State.setX_wrapAddr (s : State) (r : RegNum) (v : Word) (a : Nat) :
    (s.setX r v).wrapAddr a = s.wrapAddr a := rfl

/-! ### `setB` -/

@[simp] theorem State.setB_x (s : State) (r : RegNum) (v : Addr) : (s.setB r v).x = s.x := rfl
@[simp] theorem State.setB_b (s : State) (r : RegNum) (v : Addr) : (s.setB r v).b = s.b.write r v := rfl
@[simp] theorem State.setB_f (s : State) (r : RegNum) (v : Addr) : (s.setB r v).f = s.f := rfl
@[simp] theorem State.setB_sb (s : State) (r : RegNum) (v : Addr) : (s.setB r v).sb = s.sb := rfl
@[simp] theorem State.setB_psb (s : State) (r : RegNum) (v : Addr) : (s.setB r v).psb = s.psb := rfl
@[simp] theorem State.setB_asb (s : State) (r : RegNum) (v : Addr) : (s.setB r v).asb = s.asb := rfl
@[simp] theorem State.setB_pc (s : State) (r : RegNum) (v : Addr) : (s.setB r v).pc = s.pc := rfl
@[simp] theorem State.setB_sw (s : State) (r : RegNum) (v : Addr) : (s.setB r v).sw = s.sw := rfl
@[simp] theorem State.setB_ssw (s : State) (r : RegNum) (v : Addr) : (s.setB r v).ssw = s.ssw := rfl
@[simp] theorem State.setB_mem (s : State) (r : RegNum) (v : Addr) : (s.setB r v).mem = s.mem := rfl
@[simp] theorem State.setB_params (s : State) (r : RegNum) (v : Addr) : (s.setB r v).params = s.params := rfl
@[simp] theorem State.setB_draws (s : State) (r : RegNum) (v : Addr) : (s.setB r v).draws = s.draws := rfl
@[simp] theorem State.setB_finished (s : State) (r : RegNum) (v : Addr) : (s.setB r v).finished = s.finished := rfl
@[simp] theorem State.setB_addrBytes (s : State) (r : RegNum) (v : Addr) : (s.setB r v).addrBytes = s.addrBytes := rfl
@[simp] theorem State.setB_addrLimit (s : State) (r : RegNum) (v : Addr) : (s.setB r v).addrLimit = s.addrLimit := rfl
@[simp] theorem State.setB_wrapAddr (s : State) (r : RegNum) (v : Addr) (a : Nat) :
    (s.setB r v).wrapAddr a = s.wrapAddr a := rfl

/-! ### `setF` -/

@[simp] theorem State.setF_x (s : State) (r : RegNum) (v : Quad) : (s.setF r v).x = s.x := rfl
@[simp] theorem State.setF_b (s : State) (r : RegNum) (v : Quad) : (s.setF r v).b = s.b := rfl
@[simp] theorem State.setF_f (s : State) (r : RegNum) (v : Quad) : (s.setF r v).f = s.f.write r v := rfl
@[simp] theorem State.setF_sb (s : State) (r : RegNum) (v : Quad) : (s.setF r v).sb = s.sb := rfl
@[simp] theorem State.setF_psb (s : State) (r : RegNum) (v : Quad) : (s.setF r v).psb = s.psb := rfl
@[simp] theorem State.setF_asb (s : State) (r : RegNum) (v : Quad) : (s.setF r v).asb = s.asb := rfl
@[simp] theorem State.setF_pc (s : State) (r : RegNum) (v : Quad) : (s.setF r v).pc = s.pc := rfl
@[simp] theorem State.setF_sw (s : State) (r : RegNum) (v : Quad) : (s.setF r v).sw = s.sw := rfl
@[simp] theorem State.setF_ssw (s : State) (r : RegNum) (v : Quad) : (s.setF r v).ssw = s.ssw := rfl
@[simp] theorem State.setF_mem (s : State) (r : RegNum) (v : Quad) : (s.setF r v).mem = s.mem := rfl
@[simp] theorem State.setF_params (s : State) (r : RegNum) (v : Quad) : (s.setF r v).params = s.params := rfl
@[simp] theorem State.setF_draws (s : State) (r : RegNum) (v : Quad) : (s.setF r v).draws = s.draws := rfl
@[simp] theorem State.setF_finished (s : State) (r : RegNum) (v : Quad) : (s.setF r v).finished = s.finished := rfl
@[simp] theorem State.setF_addrBytes (s : State) (r : RegNum) (v : Quad) : (s.setF r v).addrBytes = s.addrBytes := rfl
@[simp] theorem State.setF_addrLimit (s : State) (r : RegNum) (v : Quad) : (s.setF r v).addrLimit = s.addrLimit := rfl
@[simp] theorem State.setF_wrapAddr (s : State) (r : RegNum) (v : Quad) (a : Nat) :
    (s.setF r v).wrapAddr a = s.wrapAddr a := rfl

/-! ### `setSb` -/

@[simp] theorem State.setSb_x (s : State) (r : RegNum) (v : Addr) : (s.setSb r v).x = s.x := rfl
@[simp] theorem State.setSb_b (s : State) (r : RegNum) (v : Addr) : (s.setSb r v).b = s.b := rfl
@[simp] theorem State.setSb_f (s : State) (r : RegNum) (v : Addr) : (s.setSb r v).f = s.f := rfl
@[simp] theorem State.setSb_sb (s : State) (r : RegNum) (v : Addr) : (s.setSb r v).sb = s.sb.write r v := rfl
@[simp] theorem State.setSb_psb (s : State) (r : RegNum) (v : Addr) : (s.setSb r v).psb = s.psb := rfl
@[simp] theorem State.setSb_asb (s : State) (r : RegNum) (v : Addr) : (s.setSb r v).asb = s.asb := rfl
@[simp] theorem State.setSb_pc (s : State) (r : RegNum) (v : Addr) : (s.setSb r v).pc = s.pc := rfl
@[simp] theorem State.setSb_sw (s : State) (r : RegNum) (v : Addr) : (s.setSb r v).sw = s.sw := rfl
@[simp] theorem State.setSb_ssw (s : State) (r : RegNum) (v : Addr) : (s.setSb r v).ssw = s.ssw := rfl
@[simp] theorem State.setSb_mem (s : State) (r : RegNum) (v : Addr) : (s.setSb r v).mem = s.mem := rfl
@[simp] theorem State.setSb_params (s : State) (r : RegNum) (v : Addr) : (s.setSb r v).params = s.params := rfl
@[simp] theorem State.setSb_draws (s : State) (r : RegNum) (v : Addr) : (s.setSb r v).draws = s.draws := rfl
@[simp] theorem State.setSb_finished (s : State) (r : RegNum) (v : Addr) : (s.setSb r v).finished = s.finished := rfl
@[simp] theorem State.setSb_addrBytes (s : State) (r : RegNum) (v : Addr) : (s.setSb r v).addrBytes = s.addrBytes := rfl
@[simp] theorem State.setSb_addrLimit (s : State) (r : RegNum) (v : Addr) : (s.setSb r v).addrLimit = s.addrLimit := rfl
@[simp] theorem State.setSb_wrapAddr (s : State) (r : RegNum) (v : Addr) (a : Nat) :
    (s.setSb r v).wrapAddr a = s.wrapAddr a := rfl

/-! ### `setPsb` -/

@[simp] theorem State.setPsb_x (s : State) (r : RegNum) (v : Addr) : (s.setPsb r v).x = s.x := rfl
@[simp] theorem State.setPsb_b (s : State) (r : RegNum) (v : Addr) : (s.setPsb r v).b = s.b := rfl
@[simp] theorem State.setPsb_f (s : State) (r : RegNum) (v : Addr) : (s.setPsb r v).f = s.f := rfl
@[simp] theorem State.setPsb_sb (s : State) (r : RegNum) (v : Addr) : (s.setPsb r v).sb = s.sb := rfl
@[simp] theorem State.setPsb_psb (s : State) (r : RegNum) (v : Addr) : (s.setPsb r v).psb = s.psb.write r v := rfl
@[simp] theorem State.setPsb_asb (s : State) (r : RegNum) (v : Addr) : (s.setPsb r v).asb = s.asb := rfl
@[simp] theorem State.setPsb_pc (s : State) (r : RegNum) (v : Addr) : (s.setPsb r v).pc = s.pc := rfl
@[simp] theorem State.setPsb_sw (s : State) (r : RegNum) (v : Addr) : (s.setPsb r v).sw = s.sw := rfl
@[simp] theorem State.setPsb_ssw (s : State) (r : RegNum) (v : Addr) : (s.setPsb r v).ssw = s.ssw := rfl
@[simp] theorem State.setPsb_mem (s : State) (r : RegNum) (v : Addr) : (s.setPsb r v).mem = s.mem := rfl
@[simp] theorem State.setPsb_params (s : State) (r : RegNum) (v : Addr) : (s.setPsb r v).params = s.params := rfl
@[simp] theorem State.setPsb_draws (s : State) (r : RegNum) (v : Addr) : (s.setPsb r v).draws = s.draws := rfl
@[simp] theorem State.setPsb_finished (s : State) (r : RegNum) (v : Addr) : (s.setPsb r v).finished = s.finished := rfl
@[simp] theorem State.setPsb_addrBytes (s : State) (r : RegNum) (v : Addr) : (s.setPsb r v).addrBytes = s.addrBytes := rfl
@[simp] theorem State.setPsb_addrLimit (s : State) (r : RegNum) (v : Addr) : (s.setPsb r v).addrLimit = s.addrLimit := rfl
@[simp] theorem State.setPsb_wrapAddr (s : State) (r : RegNum) (v : Addr) (a : Nat) :
    (s.setPsb r v).wrapAddr a = s.wrapAddr a := rfl

/-! ### `setAsb` -/

@[simp] theorem State.setAsb_x (s : State) (r : RegNum) (v : Addr) : (s.setAsb r v).x = s.x := rfl
@[simp] theorem State.setAsb_b (s : State) (r : RegNum) (v : Addr) : (s.setAsb r v).b = s.b := rfl
@[simp] theorem State.setAsb_f (s : State) (r : RegNum) (v : Addr) : (s.setAsb r v).f = s.f := rfl
@[simp] theorem State.setAsb_sb (s : State) (r : RegNum) (v : Addr) : (s.setAsb r v).sb = s.sb := rfl
@[simp] theorem State.setAsb_psb (s : State) (r : RegNum) (v : Addr) : (s.setAsb r v).psb = s.psb := rfl
@[simp] theorem State.setAsb_asb (s : State) (r : RegNum) (v : Addr) : (s.setAsb r v).asb = s.asb.write r v := rfl
@[simp] theorem State.setAsb_pc (s : State) (r : RegNum) (v : Addr) : (s.setAsb r v).pc = s.pc := rfl
@[simp] theorem State.setAsb_sw (s : State) (r : RegNum) (v : Addr) : (s.setAsb r v).sw = s.sw := rfl
@[simp] theorem State.setAsb_ssw (s : State) (r : RegNum) (v : Addr) : (s.setAsb r v).ssw = s.ssw := rfl
@[simp] theorem State.setAsb_mem (s : State) (r : RegNum) (v : Addr) : (s.setAsb r v).mem = s.mem := rfl
@[simp] theorem State.setAsb_params (s : State) (r : RegNum) (v : Addr) : (s.setAsb r v).params = s.params := rfl
@[simp] theorem State.setAsb_draws (s : State) (r : RegNum) (v : Addr) : (s.setAsb r v).draws = s.draws := rfl
@[simp] theorem State.setAsb_finished (s : State) (r : RegNum) (v : Addr) : (s.setAsb r v).finished = s.finished := rfl
@[simp] theorem State.setAsb_addrBytes (s : State) (r : RegNum) (v : Addr) : (s.setAsb r v).addrBytes = s.addrBytes := rfl
@[simp] theorem State.setAsb_addrLimit (s : State) (r : RegNum) (v : Addr) : (s.setAsb r v).addrLimit = s.addrLimit := rfl
@[simp] theorem State.setAsb_wrapAddr (s : State) (r : RegNum) (v : Addr) (a : Nat) :
    (s.setAsb r v).wrapAddr a = s.wrapAddr a := rfl

/-! ### `setPc` -/

@[simp] theorem State.setPc_x (s : State) (v : Addr) : (s.setPc v).x = s.x := rfl
@[simp] theorem State.setPc_b (s : State) (v : Addr) : (s.setPc v).b = s.b := rfl
@[simp] theorem State.setPc_f (s : State) (v : Addr) : (s.setPc v).f = s.f := rfl
@[simp] theorem State.setPc_sb (s : State) (v : Addr) : (s.setPc v).sb = s.sb := rfl
@[simp] theorem State.setPc_psb (s : State) (v : Addr) : (s.setPc v).psb = s.psb := rfl
@[simp] theorem State.setPc_asb (s : State) (v : Addr) : (s.setPc v).asb = s.asb := rfl
@[simp] theorem State.setPc_pc (s : State) (v : Addr) : (s.setPc v).pc = v := rfl
@[simp] theorem State.setPc_sw (s : State) (v : Addr) : (s.setPc v).sw = s.sw := rfl
@[simp] theorem State.setPc_ssw (s : State) (v : Addr) : (s.setPc v).ssw = s.ssw := rfl
@[simp] theorem State.setPc_mem (s : State) (v : Addr) : (s.setPc v).mem = s.mem := rfl
@[simp] theorem State.setPc_params (s : State) (v : Addr) : (s.setPc v).params = s.params := rfl
@[simp] theorem State.setPc_draws (s : State) (v : Addr) : (s.setPc v).draws = s.draws := rfl
@[simp] theorem State.setPc_finished (s : State) (v : Addr) : (s.setPc v).finished = s.finished := rfl
@[simp] theorem State.setPc_addrBytes (s : State) (v : Addr) : (s.setPc v).addrBytes = s.addrBytes := rfl
@[simp] theorem State.setPc_addrLimit (s : State) (v : Addr) : (s.setPc v).addrLimit = s.addrLimit := rfl
@[simp] theorem State.setPc_wrapAddr (s : State) (v : Addr) (a : Nat) : (s.setPc v).wrapAddr a = s.wrapAddr a := rfl

/-! ### `setSw` -/

@[simp] theorem State.setSw_x (s : State) (v : Status) : (s.setSw v).x = s.x := rfl
@[simp] theorem State.setSw_b (s : State) (v : Status) : (s.setSw v).b = s.b := rfl
@[simp] theorem State.setSw_f (s : State) (v : Status) : (s.setSw v).f = s.f := rfl
@[simp] theorem State.setSw_sb (s : State) (v : Status) : (s.setSw v).sb = s.sb := rfl
@[simp] theorem State.setSw_psb (s : State) (v : Status) : (s.setSw v).psb = s.psb := rfl
@[simp] theorem State.setSw_asb (s : State) (v : Status) : (s.setSw v).asb = s.asb := rfl
@[simp] theorem State.setSw_pc (s : State) (v : Status) : (s.setSw v).pc = s.pc := rfl
@[simp] theorem State.setSw_sw (s : State) (v : Status) : (s.setSw v).sw = v := rfl
@[simp] theorem State.setSw_ssw (s : State) (v : Status) : (s.setSw v).ssw = s.ssw := rfl
@[simp] theorem State.setSw_mem (s : State) (v : Status) : (s.setSw v).mem = s.mem := rfl
@[simp] theorem State.setSw_params (s : State) (v : Status) : (s.setSw v).params = s.params := rfl
@[simp] theorem State.setSw_draws (s : State) (v : Status) : (s.setSw v).draws = s.draws := rfl
@[simp] theorem State.setSw_finished (s : State) (v : Status) : (s.setSw v).finished = s.finished := rfl
@[simp] theorem State.setSw_addrBytes (s : State) (v : Status) : (s.setSw v).addrBytes = s.addrBytes := rfl
@[simp] theorem State.setSw_addrLimit (s : State) (v : Status) : (s.setSw v).addrLimit = s.addrLimit := rfl
@[simp] theorem State.setSw_wrapAddr (s : State) (v : Status) (a : Nat) : (s.setSw v).wrapAddr a = s.wrapAddr a := rfl

/-! ### `setMem` -/

@[simp] theorem State.setMem_x (s : State) (m : Memory) : (s.setMem m).x = s.x := rfl
@[simp] theorem State.setMem_b (s : State) (m : Memory) : (s.setMem m).b = s.b := rfl
@[simp] theorem State.setMem_f (s : State) (m : Memory) : (s.setMem m).f = s.f := rfl
@[simp] theorem State.setMem_sb (s : State) (m : Memory) : (s.setMem m).sb = s.sb := rfl
@[simp] theorem State.setMem_psb (s : State) (m : Memory) : (s.setMem m).psb = s.psb := rfl
@[simp] theorem State.setMem_asb (s : State) (m : Memory) : (s.setMem m).asb = s.asb := rfl
@[simp] theorem State.setMem_pc (s : State) (m : Memory) : (s.setMem m).pc = s.pc := rfl
@[simp] theorem State.setMem_sw (s : State) (m : Memory) : (s.setMem m).sw = s.sw := rfl
@[simp] theorem State.setMem_ssw (s : State) (m : Memory) : (s.setMem m).ssw = s.ssw := rfl
@[simp] theorem State.setMem_mem (s : State) (m : Memory) : (s.setMem m).mem = m := rfl
@[simp] theorem State.setMem_params (s : State) (m : Memory) : (s.setMem m).params = s.params := rfl
@[simp] theorem State.setMem_draws (s : State) (m : Memory) : (s.setMem m).draws = s.draws := rfl
@[simp] theorem State.setMem_finished (s : State) (m : Memory) : (s.setMem m).finished = s.finished := rfl
@[simp] theorem State.setMem_addrBytes (s : State) (m : Memory) : (s.setMem m).addrBytes = s.addrBytes := rfl
@[simp] theorem State.setMem_addrLimit (s : State) (m : Memory) : (s.setMem m).addrLimit = s.addrLimit := rfl
@[simp] theorem State.setMem_wrapAddr (s : State) (m : Memory) (a : Nat) : (s.setMem m).wrapAddr a = s.wrapAddr a := rfl

/-! ### `nextDraw` -/

@[simp] theorem State.nextDraw_x (s : State) : (s.nextDraw).x = s.x := rfl
@[simp] theorem State.nextDraw_b (s : State) : (s.nextDraw).b = s.b := rfl
@[simp] theorem State.nextDraw_f (s : State) : (s.nextDraw).f = s.f := rfl
@[simp] theorem State.nextDraw_sb (s : State) : (s.nextDraw).sb = s.sb := rfl
@[simp] theorem State.nextDraw_psb (s : State) : (s.nextDraw).psb = s.psb := rfl
@[simp] theorem State.nextDraw_asb (s : State) : (s.nextDraw).asb = s.asb := rfl
@[simp] theorem State.nextDraw_pc (s : State) : (s.nextDraw).pc = s.pc := rfl
@[simp] theorem State.nextDraw_sw (s : State) : (s.nextDraw).sw = s.sw := rfl
@[simp] theorem State.nextDraw_ssw (s : State) : (s.nextDraw).ssw = s.ssw := rfl
@[simp] theorem State.nextDraw_mem (s : State) : (s.nextDraw).mem = s.mem := rfl
@[simp] theorem State.nextDraw_params (s : State) : (s.nextDraw).params = s.params := rfl
@[simp] theorem State.nextDraw_draws (s : State) : (s.nextDraw).draws = s.draws + 1 := rfl
@[simp] theorem State.nextDraw_finished (s : State) : (s.nextDraw).finished = s.finished := rfl
@[simp] theorem State.nextDraw_addrBytes (s : State) : (s.nextDraw).addrBytes = s.addrBytes := rfl
@[simp] theorem State.nextDraw_addrLimit (s : State) : (s.nextDraw).addrLimit = s.addrLimit := rfl
@[simp] theorem State.nextDraw_wrapAddr (s : State) (a : Nat) : (s.nextDraw).wrapAddr a = s.wrapAddr a := rfl

end Sys2Proof.Machine
end

