-- ==== Sys2Proof/Laws/Memory.lean ====
section
/-! SUPPORT. Register files and memory: a read after a write, the canonical form, big-endian values, and what
`memRead` and `memWrite` can answer. -/

namespace Sys2Proof.Machine

/-! ### Register files -/

theorem RegFile.read_write {w : Nat} (file : RegFile w) (r q : RegNum) (v : BitVec w) :
    (file.write r v).read q = if q = r then v else file.read q := by
  simp only [RegFile.read, RegFile.write, Vector.getElem_set]
  by_cases h : q = r
  · simp [h]
  · have : r.toNat ≠ q.toNat := fun e => h (BitVec.eq_of_toNat_eq e.symm)
    simp [h, this]

@[simp] theorem RegFile.read_write_same {w : Nat} (file : RegFile w) (r : RegNum) (v : BitVec w) :
    (file.write r v).read r = v := by simp [RegFile.read_write]

theorem RegFile.read_write_other {w : Nat} (file : RegFile w) {r q : RegNum} (v : BitVec w) (h : q ≠ r) :
    (file.write r v).read q = file.read q := by simp [RegFile.read_write, h]

theorem RegFile.ext_read {w : Nat} {f g : RegFile w} (h : ∀ r : RegNum, f.read r = g.read r) : f = g := by
  apply Vector.ext
  intro i hi
  have := h (BitVec.ofNat 3 i)
  simpa [RegFile.read, Nat.mod_eq_of_lt hi] using this

/-! ### Single bytes -/

theorem Memory.read_write (m : Memory) (a k : Nat) (v : Byte) :
    (m.write a v).read k = if k = a then some v else m.read k := by
  induction m with
  | nil => simp [Memory.write, Memory.read, eq_comm]
  | cons c rest ih =>
    obtain ⟨j, w⟩ := c
    simp only [Memory.write]
    split
    · simp only [Memory.read, eq_comm (a := a)]
    · split
      · subst_vars
        simp only [Memory.read, eq_comm (a := j)]
        split <;> rfl
      · simp only [Memory.read, ih]
        split
        · subst_vars
          rw [if_neg]
          omega
        · rfl

theorem Memory.wfFrom_write (m : Memory) (lo : Option Nat) (a : Nat) (v : Byte)
    (hm : m.wfFrom lo = true) (ha : ∀ l, lo = some l → l < a) : (m.write a v).wfFrom lo = true := by
  induction m generalizing lo with
  | nil => cases lo <;> simp_all [Memory.write, Memory.wfFrom]
  | cons c rest ih =>
    obtain ⟨j, w⟩ := c
    simp only [Memory.wfFrom, Bool.and_eq_true] at hm
    simp only [Memory.write]
    split
    · cases lo <;> simp_all [Memory.wfFrom]
    · split
      · cases lo <;> simp_all [Memory.wfFrom]
      · simp only [Memory.wfFrom, Bool.and_eq_true]
        refine ⟨hm.1, ih _ hm.2 ?_⟩
        intro l hl
        cases hl
        omega

theorem Memory.wf_write {m : Memory} (a : Nat) (v : Byte) (h : m.wf = true) : (m.write a v).wf = true :=
  m.wfFrom_write none a v h (by simp)

theorem Memory.mem_write {m : Memory} {a : Nat} {v : Byte} {c : Host.Cell} (h : c ∈ m.write a v) :
    c.1 = a ∨ c ∈ m := by
  induction m with
  | nil => simp_all [Memory.write]
  | cons d rest ih =>
    obtain ⟨j, w⟩ := d
    simp only [Memory.write] at h
    split at h
    · simp only [List.mem_cons] at h ⊢
      rcases h with rfl | h
      · exact .inl rfl
      · exact .inr h
    · split at h
      · simp only [List.mem_cons] at h ⊢
        rcases h with rfl | h
        · exact .inl rfl
        · exact .inr (.inr h)
      · simp only [List.mem_cons] at h ⊢
        rcases h with h | h
        · exact .inr (.inl h)
        · rcases ih h with h | h
          · exact .inl h
          · exact .inr (.inr h)

/-! ### Runs of bytes -/

theorem Memory.read_writeBytes (m : Memory) (a k : Nat) (vs : List Byte) :
    (m.writeBytes a vs).read k = if a ≤ k ∧ k < a + vs.length then vs[k - a]? else m.read k := by
  induction vs generalizing m a with
  | nil =>
    simp only [Memory.writeBytes, List.length_nil]
    rw [if_neg]
    omega
  | cons v vs ih =>
    simp only [Memory.writeBytes, ih, Memory.read_write, List.length_cons]
    by_cases h1 : k = a
    · subst h1
      simp
    · by_cases h2 : a + 1 ≤ k ∧ k < a + 1 + vs.length
      · have h3 : a ≤ k ∧ k < a + (vs.length + 1) := by omega
        rw [if_pos h2, if_pos h3]
        have : k - a = (k - (a + 1)) + 1 := by omega
        rw [this, List.getElem?_cons_succ]
      · have h3 : ¬ (a ≤ k ∧ k < a + (vs.length + 1)) := by omega
        rw [if_neg h2, if_neg h3, if_neg h1]

theorem Memory.wf_writeBytes {m : Memory} (a : Nat) (vs : List Byte) (h : m.wf = true) :
    (m.writeBytes a vs).wf = true := by
  induction vs generalizing m a with
  | nil => exact h
  | cons v vs ih => exact ih _ (Memory.wf_write a v h)

theorem Memory.mem_writeBytes {m : Memory} {a : Nat} {vs : List Byte} {c : Host.Cell}
    (h : c ∈ m.writeBytes a vs) : (a ≤ c.1 ∧ c.1 < a + vs.length) ∨ c ∈ m := by
  induction vs generalizing m a with
  | nil => exact .inr h
  | cons v vs ih =>
    simp only [List.length_cons]
    rcases ih h with h | h
    · left
      omega
    · rcases Memory.mem_write h with h | h
      · left
        omega
      · exact .inr h

/-! ### Big-endian values -/

@[simp] theorem toBigEndian_length (n v : Nat) : (toBigEndian n v).length = n := by
  induction n with
  | zero => rfl
  | succ n ih => simp [toBigEndian, ih]

theorem toBigEndian_getElem? (n v k : Nat) (h : k < n) :
    (toBigEndian n v)[k]? = some (BitVec.ofNat 8 (v / 256 ^ (n - 1 - k))) := by
  induction n generalizing k with
  | zero => omega
  | succ n ih =>
    cases k with
    | zero => simp [toBigEndian]
    | succ k =>
      simp only [toBigEndian, List.getElem?_cons_succ]
      rw [ih k (by omega)]
      congr 4
      omega

theorem bigEndian_foldl (acc : Nat) (vs : List Byte) :
    vs.foldl (fun acc v => acc * 256 + v.toNat) acc = acc * 256 ^ vs.length + bigEndian vs := by
  induction vs generalizing acc with
  | nil => simp [bigEndian]
  | cons v vs ih =>
    simp only [bigEndian, List.foldl_cons, List.length_cons]
    rw [ih, ih (0 * 256 + v.toNat)]
    ring

theorem bigEndian_cons (v : Byte) (vs : List Byte) :
    bigEndian (v :: vs) = v.toNat * 256 ^ vs.length + bigEndian vs := by
  have := bigEndian_foldl (0 * 256 + v.toNat) vs
  simpa [bigEndian] using this

theorem bigEndian_lt (vs : List Byte) : bigEndian vs < 256 ^ vs.length := by
  induction vs with
  | nil => simp [bigEndian]
  | cons v vs ih =>
    rw [bigEndian_cons, List.length_cons, pow_succ]
    have := v.isLt
    nlinarith

theorem bigEndian_toBigEndian_mod (n v : Nat) : bigEndian (toBigEndian n v) = v % 256 ^ n := by
  induction n with
  | zero => simp [toBigEndian, bigEndian, Nat.mod_one]
  | succ n ih =>
    have h : v % 256 ^ (n + 1) = v % 256 ^ n + 256 ^ n * (v / 256 ^ n % 256) := Nat.mod_mul
    rw [toBigEndian, bigEndian_cons, ih, toBigEndian_length, BitVec.toNat_ofNat, h, Nat.mul_comm, Nat.add_comm]

theorem bigEndian_toBigEndian {n v : Nat} (h : v < 256 ^ n) : bigEndian (toBigEndian n v) = v := by
  rw [bigEndian_toBigEndian_mod, Nat.mod_eq_of_lt h]

theorem toBigEndian_mod (n v : Nat) : toBigEndian n (v % 256 ^ n) = toBigEndian n v := by
  apply List.ext_getElem?
  intro k
  by_cases h : k < n
  · rw [toBigEndian_getElem? _ _ _ h, toBigEndian_getElem? _ _ _ h]
    congr 1
    apply BitVec.eq_of_toNat_eq
    simp only [BitVec.toNat_ofNat]
    have e : (256 : Nat) ^ n = 256 ^ (n - 1 - k) * 256 ^ (k + 1) := by
      rw [← pow_add]
      congr 1
      omega
    rw [e, Nat.mod_mul_right_div_self, Nat.mod_mod_of_dvd _ (Dvd.intro_left (256 ^ k) (by ring))]
  · rw [List.getElem?_eq_none (by simpa using h), List.getElem?_eq_none (by simpa using h)]

theorem toBigEndian_bigEndian (vs : List Byte) : toBigEndian vs.length (bigEndian vs) = vs := by
  induction vs with
  | nil => rfl
  | cons v vs ih =>
    have hlt := bigEndian_lt vs
    rw [List.length_cons, toBigEndian, bigEndian_cons]
    congr 1
    · apply BitVec.eq_of_toNat_eq
      rw [BitVec.toNat_ofNat, Nat.mul_comm, Nat.mul_add_div (by positivity), Nat.div_eq_of_lt hlt]
      have := v.isLt
      omega
    · conv_rhs => rw [← ih]
      rw [← toBigEndian_mod]
      congr 1
      rw [Nat.mul_comm, Nat.mul_add_mod, Nat.mod_eq_of_lt hlt]

/-! ### `Holds`, and reads of several bytes -/

theorem Memory.readBytes_eq_ok_iff (m : Memory) (a n : Nat) (vs : List Byte) :
    m.readBytes a n = .ok vs ↔ vs.length = n ∧ ∀ k, k < n → m.read (a + k) = vs[k]? := by
  induction n generalizing a vs with
  | zero => cases vs <;> simp [Memory.readBytes]
  | succ n ih =>
    simp only [Memory.readBytes]
    constructor
    · intro h
      split at h
      · cases h
      · rename_i v hv
        split at h
        · cases h
        · rename_i ws hws
          cases h
          obtain ⟨hl, hr⟩ := (ih _ _).1 hws
          refine ⟨by simp [hl], ?_⟩
          intro k hk
          cases k with
          | zero => simpa using hv
          | succ k =>
            have := hr k (by omega)
            rw [List.getElem?_cons_succ, ← this]
            congr 1
            omega
    · rintro ⟨hl, hr⟩
      cases vs with
      | nil => simp at hl
      | cons v vs =>
        have h0 := hr 0 (by omega)
        simp only [Nat.add_zero, List.getElem?_cons_zero] at h0
        have h1 : m.readBytes (a + 1) n = .ok vs := by
          rw [ih]
          refine ⟨by simpa using hl, ?_⟩
          intro k hk
          have := hr (k + 1) (by omega)
          rw [List.getElem?_cons_succ] at this
          rw [← this]
          congr 1
          omega
        simp [h0, h1]

theorem Memory.readBytes_bigEndian_iff (m : Memory) (a n v : Nat) :
    (∃ vs, m.readBytes a n = .ok vs ∧ bigEndian vs = v) ↔ Holds m a n v := by
  constructor
  · rintro ⟨vs, h, rfl⟩
    obtain ⟨rfl, hr⟩ := (m.readBytes_eq_ok_iff a n vs).1 h
    refine ⟨bigEndian_lt vs, ?_⟩
    intro k hk
    rw [hr k hk, ← toBigEndian_getElem? _ _ _ hk, toBigEndian_bigEndian]
  · rintro ⟨hv, hr⟩
    refine ⟨toBigEndian n v, ?_, bigEndian_toBigEndian hv⟩
    rw [m.readBytes_eq_ok_iff]
    refine ⟨toBigEndian_length n v, ?_⟩
    intro k hk
    rw [hr k hk, toBigEndian_getElem? _ _ _ hk]

theorem Memory.readBytes_error {m : Memory} {a n : Nat} {e : Fault} (h : m.readBytes a n = .error e) :
    ∃ k, k < n ∧ m.read (a + k) = none ∧ (∀ j, j < k → (m.read (a + j)).isSome = true) ∧
      e = .unmappedAccess (a + k) := by
  induction n generalizing a with
  | zero => simp [Memory.readBytes] at h
  | succ n ih =>
    simp only [Memory.readBytes] at h
    split at h
    · rename_i hn
      cases h
      exact ⟨0, by omega, by simpa using hn, by omega, rfl⟩
    · rename_i v hv
      split at h
      · rename_i e' he
        cases h
        obtain ⟨k, hk, hn, hj, rfl⟩ := ih he
        refine ⟨k + 1, by omega, by rw [← hn]; congr 1; omega, ?_, by congr 1; omega⟩
        intro j hjk
        cases j with
        | zero => simp [hv]
        | succ j =>
          have := hj j (by omega)
          rw [← this]
          congr 2
          omega
      · cases h

theorem Holds.unique {m : Memory} {a n v w : Nat} (h : Holds m a n v) (h' : Holds m a n w) : v = w := by
  obtain ⟨vs, hvs, rfl⟩ := (m.readBytes_bigEndian_iff a n v).2 h
  obtain ⟨ws, hws, rfl⟩ := (m.readBytes_bigEndian_iff a n w).2 h'
  rw [hvs] at hws
  cases hws
  rfl

theorem Mapped.holds {m : Memory} {a n : Nat} (h : Mapped m a n) : ∃ v, Holds m a n v := by
  cases hr : m.readBytes a n with
  | error e =>
    obtain ⟨k, hk, hn, -⟩ := Memory.readBytes_error hr
    have := h k hk
    simp [hn] at this
  | ok vs => exact ⟨_, (m.readBytes_bigEndian_iff a n _).1 ⟨vs, hr, rfl⟩⟩

theorem Holds.mapped {m : Memory} {a n v : Nat} (h : Holds m a n v) : Mapped m a n := by
  intro k hk
  simp [h.2 k hk]

theorem Holds.congr {m m' : Memory} {a n v : Nat} (h : Holds m a n v)
    (e : ∀ k, k < n → m'.read (a + k) = m.read (a + k)) : Holds m' a n v :=
  ⟨h.1, fun k hk => (e k hk).trans (h.2 k hk)⟩

/-- What `memRead` answers: a value exactly where the access fits and memory holds it. -/
theorem memRead_eq_ok_iff (s : State) (a n v : Nat) :
    memRead s a n = .ok v ↔ a + n ≤ s.addrLimit ∧ Holds s.mem a n v := by
  rw [← Memory.readBytes_bigEndian_iff]
  unfold memRead
  split
  · rename_i h
    simp only [h, true_and]
    split
    · rename_i e he
      simp [he]
    · rename_i vs hvs
      simp [hvs]
  · rename_i h
    simp [h]

theorem memRead_error {s : State} {a n : Nat} {e : Fault} (h : memRead s a n = .error e) :
    (s.addrLimit < a + n ∧ e = .addressWrap a) ∨
      (a + n ≤ s.addrLimit ∧ ∃ k, k < n ∧ s.mem.read (a + k) = none ∧ e = .unmappedAccess (a + k)) := by
  unfold memRead at h
  split at h
  · rename_i hl
    split at h
    · rename_i e' he
      cases h
      obtain ⟨k, hk, hn, -, rfl⟩ := Memory.readBytes_error he
      exact .inr ⟨hl, k, hk, hn, rfl⟩
    · cases h
  · rename_i hl
    cases h
    exact .inl ⟨by omega, rfl⟩

/-! ### Stores -/

theorem stored_writeBytes {m : Memory} {a n v : Nat} (h : v < 256 ^ n) :
    Stored m (m.writeBytes a (toBigEndian n v)) a n v := by
  refine ⟨⟨h, ?_⟩, ?_⟩
  · intro k hk
    rw [Memory.read_writeBytes, toBigEndian_length, if_pos (by omega), Nat.add_sub_cancel_left,
      toBigEndian_getElem? _ _ _ hk]
  · intro k hk
    rw [Memory.read_writeBytes, toBigEndian_length, if_neg (by omega)]

theorem firstInText_eq_none_iff (p : Params) (a n : Nat) :
    firstInText p a n = none ↔ ∀ k, k < n → inText p (a + k) = false := by
  induction n generalizing a with
  | zero => simp [firstInText]
  | succ n ih =>
    simp only [firstInText]
    split
    · rename_i h
      simp only [reduceCtorEq, false_iff]
      intro hk
      have := hk 0 (by omega)
      simp_all
    · rename_i h
      rw [ih]
      constructor
      · intro hk k hkn
        cases k with
        | zero => simpa using h
        | succ k =>
          have := hk k (by omega)
          rw [← this]
          congr 1
          omega
      · intro hk k hkn
        have := hk (k + 1) (by omega)
        rw [← this]
        congr 1
        omega

theorem firstInText_eq_some {p : Params} {a n k : Nat} (h : firstInText p a n = some k) :
    a ≤ k ∧ k < a + n ∧ inText p k = true := by
  induction n generalizing a with
  | zero => simp [firstInText] at h
  | succ n ih =>
    simp only [firstInText] at h
    split at h
    · rename_i hi
      cases h
      exact ⟨by omega, by omega, hi⟩
    · obtain ⟨h1, h2, h3⟩ := ih h
      exact ⟨by omega, by omega, h3⟩

/-- What `memWrite` answers: a state exactly where the access fits and misses the program text. -/
theorem memWrite_eq_ok_iff (s s' : State) (a n v : Nat) :
    memWrite s a n v = .ok s' ↔
      a + n ≤ s.addrLimit ∧ ClearOfText s a n ∧ s' = s.setMem (s.mem.writeBytes a (toBigEndian n v)) := by
  unfold memWrite ClearOfText
  rw [← firstInText_eq_none_iff]
  split
  · rename_i h
    split
    · rename_i k hk
      simp [hk]
    · rename_i hk
      simp [hk, h, eq_comm]
  · rename_i h
    simp [h]

/-- A store keeps the canonical form of memory. -/
theorem memWrite_wf {s t : State} {a n v : Nat} (h : memWrite s a n v = .ok t) (hw : s.mem.wf = true) :
    t.mem.wf = true := by
  obtain ⟨-, -, rfl⟩ := (memWrite_eq_ok_iff s t a n v).1 h
  exact Memory.wf_writeBytes _ _ hw

theorem memWrite_error {s : State} {a n v : Nat} {e : Fault} (h : memWrite s a n v = .error e) :
    (s.addrLimit < a + n ∧ e = .addressWrap a) ∨
      (a + n ≤ s.addrLimit ∧ ∃ k, a ≤ k ∧ k < a + n ∧ inText s.params k = true ∧ e = .storeToText k) := by
  unfold memWrite at h
  split at h
  · rename_i hl
    split at h
    · rename_i k hk
      cases h
      obtain ⟨h1, h2, h3⟩ := firstInText_eq_some hk
      exact .inr ⟨hl, k, h1, h2, h3, rfl⟩
    · cases h
  · rename_i hl
    cases h
    exact .inl ⟨by omega, rfl⟩

end Sys2Proof.Machine
end

