-- ==== Sys2Proof/Laws/Ops.lean ====
section
/-! SUPPORT. What each shared operation can do, said once: exactly when it answers a state, and which. -/

namespace Sys2Proof.Machine

theorem Except.bind_eq_ok_iff {ε α β : Type} (x : Except ε α) (g : α → Except ε β) (b : β) :
    (x >>= g) = .ok b ↔ ∃ a, x = .ok a ∧ g a = .ok b := by
  cases x <;> simp [bind, Except.bind]

theorem outcomeOf_eq_next_iff (r : Except Fault State) (t : State) : outcomeOf r = .next t ↔ r = .ok t := by
  cases r <;> simp [outcomeOf]

theorem outcomeOf_eq_fault_iff (r : Except Fault State) (e : Fault) :
    outcomeOf r = .fault e ↔ r = .error e := by
  cases r <;> simp [outcomeOf]

theorem outcomeOf_ne_refused (r : Except Fault State) (e : Refusal) : outcomeOf r ≠ .refused e := by
  cases r <;> simp [outcomeOf]

/-! ### Addresses -/

theorem State.addrBytes_pos (s : State) : 0 < s.addrBytes := by
  unfold State.addrBytes
  split <;> simp

theorem State.addrLimit_eq (s : State) : s.addrLimit = 256 ^ s.addrBytes := by
  unfold State.addrLimit State.addrBytes
  split <;> norm_num

theorem State.addrLimit_le (s : State) : s.addrLimit ≤ 2 ^ 64 := by
  unfold State.addrLimit
  split <;> norm_num

theorem State.addrLimit_ge (s : State) : 2 ^ 32 ≤ s.addrLimit := by
  unfold State.addrLimit
  split <;> norm_num

theorem State.addrLimit_even (s : State) : s.addrLimit % 2 = 0 := by
  unfold State.addrLimit
  split <;> norm_num

theorem State.truncAddr_toNat (s : State) (a : Addr) : (s.truncAddr a).toNat = a.toNat % s.addrLimit := by
  have := a.isLt
  unfold State.truncAddr State.addrLimit
  split
  · simp only [BitVec.toNat_setWidth]
    omega
  · omega

theorem State.truncAddr_lt (s : State) (a : Addr) : (s.truncAddr a).toNat < s.addrLimit := by
  rw [s.truncAddr_toNat]
  exact Nat.mod_lt _ (by have := s.addrLimit_ge; omega)

theorem addr_add_toNat {a : Addr} {n : Nat} (h : a.toNat + n < 2 ^ 64) :
    (a + BitVec.ofNat 64 n).toNat = a.toNat + n := by
  simp only [BitVec.toNat_add, BitVec.toNat_ofNat]
  omega

theorem addr_sub_toNat {a : Addr} {n : Nat} (h : n ≤ a.toNat) :
    (a - BitVec.ofNat 64 n).toNat = a.toNat - n := by
  have := a.isLt
  simp only [BitVec.toNat_sub, BitVec.toNat_ofNat]
  omega

theorem addr_even_iff (a : Addr) : a.getLsbD 0 = false ↔ a.toNat % 2 = 0 := by
  rw [BitVec.getLsbD, Nat.testBit_zero]
  simp

/-! ### The program counter -/

theorem nextAddr_eq_ok_iff (s : State) (len : Nat) (a : Addr) :
    nextAddr s len = .ok a ↔ s.pc.toNat + len < s.addrLimit ∧ a = s.pc + BitVec.ofNat 64 len := by
  unfold nextAddr
  split <;> simp_all [eq_comm]

theorem advance_eq_ok_iff (len : Nat) (s t : State) :
    advance len s = .ok t ↔
      s.pc.toNat + len < s.addrLimit ∧ t = s.setPc (s.pc + BitVec.ofNat 64 len) := by
  unfold advance
  rw [Except.bind_eq_ok_iff]
  simp only [nextAddr_eq_ok_iff, Except.ok.injEq]
  constructor
  · rintro ⟨a, ⟨h, rfl⟩, rfl⟩
    exact ⟨h, rfl⟩
  · rintro ⟨h, rfl⟩
    exact ⟨_, ⟨h, rfl⟩, rfl⟩

theorem transferTo_eq_ok_iff (a : Addr) (s t : State) :
    transferTo a s = .ok t ↔ a.getLsbD 0 = false ∧ t = s.setPc a := by
  unfold transferTo
  split
  · rename_i h
    simp [h]
  · rename_i h
    rw [Bool.not_eq_true] at h
    simp only [h, Except.ok.injEq, true_and]
    exact eq_comm

theorem relativeTarget_eq_ok_iff (s : State) (len : Nat) (disp : Int) (a : Addr) :
    relativeTarget s len disp = .ok a ↔
      0 ≤ (s.pc.toNat + len + 2 * disp : Int) ∧ (s.pc.toNat + len + 2 * disp : Int) < s.addrLimit ∧
        a = BitVec.ofNat 64 (s.pc.toNat + len + 2 * disp : Int).toNat := by
  unfold relativeTarget
  simp only
  split
  · rename_i h
    simp [h.1, h.2, eq_comm]
  · rename_i h
    simp only [reduceCtorEq, false_iff]
    rintro ⟨h1, h2, -⟩
    exact h ⟨h1, h2⟩

/-! ### The stack pointer -/

theorem growStack_eq_ok_iff (len : Nat) (s t : State) :
    growStack len s = .ok t ↔
      (s.b.read 0).toNat + len < s.addrLimit ∧ t = s.setB 0 (s.b.read 0 + BitVec.ofNat 64 len) := by
  unfold growStack
  split <;> simp_all [eq_comm]

theorem shrinkStack_eq_ok_iff (len : Nat) (s t : State) :
    shrinkStack len s = .ok t ↔
      len ≤ (s.b.read 0).toNat ∧ t = s.setB 0 (s.b.read 0 - BitVec.ofNat 64 len) := by
  unfold shrinkStack
  split <;> simp_all [eq_comm]

/-- A return address is saved in a register, or pushed. -/
theorem saveReturn_eq_ok_iff (rR : RegNum) (next : Addr) (s t : State) :
    saveReturn rR next s = .ok t ↔
      (rR ≠ 0 ∧ t = s.setB rR next) ∨
        (rR = 0 ∧ (s.b.read 0).toNat + s.addrBytes < s.addrLimit ∧
          ClearOfText s (s.b.read 0).toNat s.addrBytes ∧
          t = (s.setMem (s.mem.writeBytes (s.b.read 0).toNat (toBigEndian s.addrBytes next.toNat))).setB 0
            (s.b.read 0 + BitVec.ofNat 64 s.addrBytes)) := by
  unfold saveReturn
  by_cases h : rR = 0
  · rw [if_pos h, Except.bind_eq_ok_iff]
    simp only [memWrite_eq_ok_iff, growStack_eq_ok_iff, h, ne_eq, not_true_eq_false, false_and, true_and,
      false_or]
    constructor
    · rintro ⟨s', ⟨-, hc, rfl⟩, hg, rfl⟩
      exact ⟨by simpa using hg, hc, by simp⟩
    · rintro ⟨hl, hc, rfl⟩
      exact ⟨_, ⟨by omega, hc, rfl⟩, by simpa using hl, by simp⟩
  · rw [if_neg h]
    simp only [Except.ok.injEq, h, ne_eq, not_false_eq_true, true_and, false_and, or_false]
    exact eq_comm

/-- A popped return address is the new `pc`. -/
theorem popReturn_eq_ok_iff (s t : State) :
    popReturn s = .ok t ↔
      s.addrBytes ≤ (s.b.read 0).toNat ∧
        ∃ v, (s.b.read 0).toNat - s.addrBytes + s.addrBytes ≤ s.addrLimit ∧
          Holds s.mem ((s.b.read 0).toNat - s.addrBytes) s.addrBytes v ∧
          (BitVec.ofNat 64 v).getLsbD 0 = false ∧
          t = (s.setB 0 (s.b.read 0 - BitVec.ofNat 64 s.addrBytes)).setPc (BitVec.ofNat 64 v) := by
  unfold popReturn
  simp only [Except.bind_eq_ok_iff, shrinkStack_eq_ok_iff, memRead_eq_ok_iff, transferTo_eq_ok_iff]
  constructor
  · rintro ⟨s', ⟨hl, rfl⟩, v, ⟨h1, h2⟩, h3, rfl⟩
    rw [State.setB_b, RegFile.read_write_same, addr_sub_toNat hl] at h1 h2
    exact ⟨hl, v, h1, h2, h3, rfl⟩
  · rintro ⟨hl, v, h1, h2, h3, rfl⟩
    refine ⟨_, ⟨hl, rfl⟩, v, ?_, h3, rfl⟩
    rw [State.setB_b, RegFile.read_write_same, addr_sub_toNat hl]
    exact ⟨h1, h2⟩

/-! ### Where these operations stop -/

theorem nextAddr_stops {s : State} {len : Nat} (h : s.addrLimit ≤ s.pc.toNat + len) :
    nextAddr s len = .error (.addressWrap (s.pc.toNat + len : Nat)) := by
  simp [nextAddr, Nat.not_lt.2 h]

theorem advance_stops {s : State} {len : Nat} (h : s.addrLimit ≤ s.pc.toNat + len) :
    advance len s = .error (.addressWrap (s.pc.toNat + len : Nat)) := by
  simp only [advance, nextAddr_stops h, bind, Except.bind]

theorem transferTo_stops {a : Addr} {s : State} (h : a.getLsbD 0 = true) :
    transferTo a s = .error (.misalignedTarget a) := by
  simp only [transferTo, h, if_pos]

theorem relativeTarget_stops {s : State} {len : Nat} {disp a : Int} (ha : a = s.pc.toNat + len + 2 * disp)
    (h : a < 0 ∨ s.addrLimit ≤ a) : relativeTarget s len disp = .error (.addressWrap a) := by
  subst ha
  simp only [relativeTarget]
  rw [if_neg (by omega)]

theorem growStack_stops {len : Nat} {s : State} (h : s.addrLimit ≤ (s.b.read 0).toNat + len) :
    growStack len s = .error (.addressWrap ((s.b.read 0).toNat + len : Nat)) := by
  rw [growStack, if_neg (by omega)]
  rfl

theorem shrinkStack_stops {len : Nat} {s : State} (h : (s.b.read 0).toNat < len) :
    shrinkStack len s = .error (.addressWrap ((s.b.read 0).toNat - len)) := by
  rw [shrinkStack, if_neg (by omega)]

/-! ### Operand checks -/

theorem checkEven_eq_ok_iff (i : Instr) (r : RegNum) (u : Unit) : checkEven i r = .ok u ↔ r.getLsbD 0 = false := by
  unfold checkEven
  split <;> simp_all

theorem checkRange_eq_ok_iff (i : Instr) (r1 r2 : RegNum) (u : Unit) : checkRange i r1 r2 = .ok u ↔ r1 ≤ r2 := by
  unfold checkRange
  split
  · rename_i h
    simp only [reduceCtorEq, false_iff]
    exact BitVec.not_le.2 h
  · rename_i h
    simp only [true_iff]
    exact BitVec.not_lt.1 h

/-! ### Jump targets -/

theorem jumpTarget_eq_ok_iff (rX rB : RegNum) (addr : Half) (s : State) (t : Addr)
    (ht : rX ≠ 0 → t.toNat < s.addrLimit) :
    jumpTarget rX rB addr s = .ok t ↔ JumpsTo s rX rB addr t := by
  unfold jumpTarget JumpsTo
  by_cases h : rX = 0
  · simp [h, eq_comm]
  · rw [if_neg h, Except.bind_eq_ok_iff]
    simp only [memRead_eq_ok_iff, Except.ok.injEq, h, false_and, ne_eq, not_false_eq_true, true_and, false_or]
    constructor
    · rintro ⟨v, ⟨h1, h2⟩, rfl⟩
      refine ⟨h1, ?_⟩
      have hv := h2.1
      rw [← s.addrLimit_eq] at hv
      have := s.addrLimit_le
      rwa [BitVec.toNat_ofNat, Nat.mod_eq_of_lt (by omega)]
    · rintro ⟨h1, h2⟩
      exact ⟨t.toNat, ⟨h1, h2⟩, by simp⟩

/-! ### Ranges of registers -/

theorem State.readFile_lt (s : State) (h : FileFits s.addrLimit s.b) (hs : FileFits s.addrLimit s.sb)
    (hp : FileFits s.addrLimit s.psb) (ha : FileFits s.addrLimit s.asb) (file : FileName) (r : RegNum) :
    s.readFile file r < 256 ^ s.elementBytes file := by
  have hl := s.addrLimit_eq
  cases file <;> simp only [State.readFile, State.elementBytes, ← hl]
  · exact (s.x.read r).isLt
  · exact h r
  · exact (s.f.read r).isLt
  · exact hs r
  · exact hp r
  · exact ha r

@[simp] theorem State.writeFile_elementBytes (s : State) (file file' : FileName) (r : RegNum) (v : Nat) :
    (s.writeFile file r v).elementBytes file' = s.elementBytes file' := by
  cases file <;> rfl

@[simp] theorem State.setMem_elementBytes (s : State) (m : Memory) (file : FileName) :
    (s.setMem m).elementBytes file = s.elementBytes file := by
  cases file <;> rfl

@[simp] theorem State.setMem_readFile (s : State) (m : Memory) (file : FileName) (r : RegNum) :
    (s.setMem m).readFile file r = s.readFile file r := by
  cases file <;> rfl

@[simp] theorem State.writeFile_mem (s : State) (file : FileName) (r : RegNum) (v : Nat) :
    (s.writeFile file r v).mem = s.mem := by
  cases file <;> rfl

@[simp] theorem State.writeFile_addrLimit (s : State) (file : FileName) (r : RegNum) (v : Nat) :
    (s.writeFile file r v).addrLimit = s.addrLimit := by
  cases file <;> rfl

@[simp] theorem State.writeFile_wrapAddr (s : State) (file : FileName) (r : RegNum) (v a : Nat) :
    (s.writeFile file r v).wrapAddr a = s.wrapAddr a := by
  simp [State.wrapAddr]

@[simp] theorem State.writeFile_pc (s : State) (file : FileName) (r : RegNum) (v : Nat) :
    (s.writeFile file r v).pc = s.pc := by
  cases file <;> rfl

@[simp] theorem State.writeFile_params (s : State) (file : FileName) (r : RegNum) (v : Nat) :
    (s.writeFile file r v).params = s.params := by
  cases file <;> rfl

theorem State.elementBytes_pos (s : State) (file : FileName) : 0 < s.elementBytes file := by
  have := s.addrBytes_pos
  cases file <;> simp_all [State.elementBytes]

theorem State.elementBytes_le (s : State) (file : FileName) : s.elementBytes file ≤ 16 := by
  have : s.addrBytes ≤ 16 := by
    unfold State.addrBytes
    split <;> omega
  cases file <;> simp_all [State.elementBytes]

theorem State.readFile_writeFile (s : State) (file : FileName) (r q : RegNum) (v : Nat)
    (hv : v < 256 ^ s.elementBytes file) :
    (s.writeFile file r v).readFile file q = if q = r then v else s.readFile file q := by
  have hl := s.addrLimit_le
  rw [s.addrLimit_eq] at hl
  have h4 : (256 : Nat) ^ 4 = 2 ^ 32 := by norm_num
  have h16 : (256 : Nat) ^ 16 = 2 ^ 128 := by norm_num
  cases file <;> simp only [State.writeFile, State.readFile, State.elementBytes] at hv ⊢ <;>
    simp only [State.setX_x, State.setB_b, State.setF_f, State.setSb_sb, State.setPsb_psb, State.setAsb_asb,
      RegFile.read_write] <;>
    split <;> first | rfl | (rw [BitVec.toNat_ofNat, Nat.mod_eq_of_lt (by omega)])

/-- Two states agree but for the register file `file`. -/
def SameBut (file : FileName) (s t : State) : Prop :=
  match file with
  | .x => t = { s with x := t.x }
  | .b => t = { s with b := t.b }
  | .f => t = { s with f := t.f }
  | .sb => t = { s with sb := t.sb }
  | .psb => t = { s with psb := t.psb }
  | .asb => t = { s with asb := t.asb }

theorem SameBut.refl (file : FileName) (s : State) : SameBut file s s := by
  cases file <;> rfl

theorem SameBut.trans {file : FileName} {s t u : State} (h : SameBut file s t) (h' : SameBut file t u) :
    SameBut file s u := by
  cases file <;> simp only [SameBut] at * <;> rw [h', h]

theorem sameBut_writeFile (s : State) (file : FileName) (r : RegNum) (v : Nat) :
    SameBut file s (s.writeFile file r v) := by
  cases file <;> rfl

/-- An address that is in range stands for itself. -/
theorem State.wrapAddr_eq {s : State} {a : Nat} (h : a < s.addrLimit) : s.wrapAddr a = a := Nat.mod_eq_of_lt h

/-- Two places at least `e` apart, both ways around the address space, hold elements of `e` bytes without overlap. -/
theorem State.wrapAddr_apart {s : State} {a d e : Nat} (hd : e ≤ d) (hl : d + e ≤ s.addrLimit) :
    s.wrapAddr a + e ≤ s.wrapAddr (a + d) ∨ s.wrapAddr (a + d) + e ≤ s.wrapAddr a := by
  unfold State.wrapAddr at *
  have hu : a % s.addrLimit < s.addrLimit := Nat.mod_lt _ (by have := s.addrLimit_ge; omega)
  rw [← Nat.mod_add_mod]
  generalize a % s.addrLimit = u at *
  by_cases h : u + d < s.addrLimit
  · rw [Nat.mod_eq_of_lt h]
    omega
  · rw [Nat.mod_eq_sub_mod (by omega), Nat.mod_eq_of_lt (by omega)]
    omega

/-- The first element of a range, and the rest of it. -/
theorem range_head_tail {P : Nat → Prop} {a e count : Nat} :
    (∀ j, j < count + 1 → P (a + j * e)) ↔ P a ∧ ∀ j, j < count → P (a + e + j * e) := by
  have step : ∀ j, a + e + j * e = a + (j + 1) * e := fun j => by ring
  constructor
  · intro h
    exact ⟨by simpa using h 0 (by omega), fun j hj => by rw [step]; exact h (j + 1) (by omega)⟩
  · rintro ⟨h0, h⟩ j hj
    cases j with
    | zero => simpa using h0
    | succ j => rw [← step]; exact h j (by omega)

theorem rangeMapped_succ {s : State} {a e count : Nat} :
    RangeMapped s a e (count + 1) ↔
      (s.wrapAddr a + e ≤ s.addrLimit ∧ Mapped s.mem (s.wrapAddr a) e) ∧ RangeMapped s (a + e) e count :=
  range_head_tail (P := fun b => s.wrapAddr b + e ≤ s.addrLimit ∧ Mapped s.mem (s.wrapAddr b) e)

theorem rangeClear_succ {s : State} {a e count : Nat} :
    RangeClear s a e (count + 1) ↔
      (s.wrapAddr a + e ≤ s.addrLimit ∧ ClearOfText s (s.wrapAddr a) e) ∧ RangeClear s (a + e) e count :=
  range_head_tail (P := fun b => s.wrapAddr b + e ≤ s.addrLimit ∧ ClearOfText s (s.wrapAddr b) e)

/-- An area that ends within the address space is a range whose addresses do not wrap. -/
theorem Mapped.range {s : State} {a e count : Nat} (he : 0 < e) (hl : a + count * e ≤ s.addrLimit)
    (hm : Mapped s.mem a (count * e)) : RangeMapped s a e count := by
  intro j hj
  have : (j + 1) * e ≤ count * e := Nat.mul_le_mul_right e hj
  rw [Nat.add_mul] at this
  rw [s.wrapAddr_eq (by omega)]
  refine ⟨by omega, fun k hk => ?_⟩
  rw [Nat.add_assoc]
  exact hm (j * e + k) (by omega)

theorem ClearOfText.range {s : State} {a e count : Nat} (he : 0 < e) (hl : a + count * e ≤ s.addrLimit)
    (hc : ClearOfText s a (count * e)) : RangeClear s a e count := by
  intro j hj
  have : (j + 1) * e ≤ count * e := Nat.mul_le_mul_right e hj
  rw [Nat.add_mul] at this
  rw [s.wrapAddr_eq (by omega)]
  refine ⟨by omega, fun k hk => ?_⟩
  rw [Nat.add_assoc]
  exact hc (j * e + k) (by omega)

theorem regNum_succ_toNat {r : RegNum} (h : r.toNat + 1 < 8) : (r + 1).toNat = r.toNat + 1 := by
  simp only [BitVec.toNat_add, BitVec.reduceToNat]
  omega

/-- The place of register `q` in the range from `r` on is its place in the rest of it, from `r + 1` on. -/
theorem range_place {r q : RegNum} {a e : Nat} (hq : r.toNat < q.toNat) :
    a + e + (q.toNat - (r + 1).toNat) * e = a + (q.toNat - r.toNat) * e := by
  have := q.isLt
  rw [regNum_succ_toNat (by omega), show q.toNat - r.toNat = (q.toNat - (r.toNat + 1)) + 1 by omega]
  ring

/-- `loadRange` answers a state only where each access is possible; then each register of the range holds
what memory holds at its place, the other registers of the file and all else are as they were. -/
theorem loadRange_eq_ok {file : FileName} {count : Nat} {r : RegNum} {a : Nat} {s t : State}
    (h : loadRange file count r a s = .ok t) (hr : r.toNat + count ≤ 8) :
    RangeMapped s a (s.elementBytes file) count ∧ SameBut file s t ∧
      (∀ q : RegNum, r.toNat ≤ q.toNat ∧ q.toNat < r.toNat + count →
        Holds s.mem (s.wrapAddr (a + (q.toNat - r.toNat) * s.elementBytes file)) (s.elementBytes file)
          (t.readFile file q)) ∧
      (∀ q : RegNum, q.toNat < r.toNat ∨ r.toNat + count ≤ q.toNat → t.readFile file q = s.readFile file q) := by
  induction count generalizing r a s with
  | zero =>
    simp only [loadRange, Except.ok.injEq] at h
    subst h
    refine ⟨fun j hj => by omega, SameBut.refl _ _, ?_, fun _ _ => rfl⟩
    intro q hq
    omega
  | succ count ih =>
    simp only [loadRange, Except.bind_eq_ok_iff, memRead_eq_ok_iff] at h
    obtain ⟨v, ⟨hfit, hv⟩, h⟩ := h
    have other : ∀ q : RegNum, q.toNat < r.toNat ∨ r.toNat + (count + 1) ≤ q.toNat →
        (s.writeFile file r v).readFile file q = s.readFile file q := by
      intro q hq
      rw [s.readFile_writeFile file r q v hv.1, if_neg]
      rintro rfl
      omega
    have own : ∀ q : RegNum, q.toNat = r.toNat →
        Holds s.mem (s.wrapAddr (a + (q.toNat - r.toNat) * s.elementBytes file)) (s.elementBytes file)
          ((s.writeFile file r v).readFile file q) := by
      intro q hq
      rw [s.readFile_writeFile file r q v hv.1, if_pos (BitVec.eq_of_toNat_eq hq)]
      simpa [hq] using hv
    by_cases hc : count = 0
    · subst hc
      simp only [loadRange, Except.ok.injEq] at h
      subst h
      exact ⟨rangeMapped_succ.2 ⟨⟨hfit, hv.mapped⟩, fun j hj => by omega⟩, sameBut_writeFile _ _ _ _,
        fun q hq => own q (by omega), other⟩
    · have hr1 := regNum_succ_toNat (r := r) (by omega)
      obtain ⟨h1, h2, h3, h4⟩ := ih h (by omega)
      simp only [RangeMapped, State.writeFile_elementBytes, State.writeFile_addrLimit, State.writeFile_wrapAddr,
        State.writeFile_mem] at h1 h3
      refine ⟨rangeMapped_succ.2 ⟨⟨hfit, hv.mapped⟩, h1⟩, (sameBut_writeFile _ _ _ _).trans h2, ?_, ?_⟩
      · intro q hq
        by_cases hqr : q.toNat = r.toNat
        · rw [h4 q (by omega)]
          exact own q hqr
        · have := h3 q (by omega)
          rwa [range_place (by omega)] at this
      · intro q hq
        rw [h4 q (by omega)]
        exact other q hq

theorem loadRange_completes (file : FileName) (count : Nat) (r : RegNum) (a : Nat) (s : State)
    (hm : RangeMapped s a (s.elementBytes file) count) : ∃ t, loadRange file count r a s = .ok t := by
  induction count generalizing r a s with
  | zero => exact ⟨s, rfl⟩
  | succ count ih =>
    obtain ⟨⟨hfit, h0⟩, hm⟩ := rangeMapped_succ.1 hm
    obtain ⟨v, hv⟩ := h0.holds
    obtain ⟨t, ht⟩ := ih (r + 1) (a + s.elementBytes file) (s.writeFile file r v) (by simpa [RangeMapped] using hm)
    refine ⟨t, ?_⟩
    simp only [loadRange, Except.bind_eq_ok_iff, memRead_eq_ok_iff]
    exact ⟨v, ⟨hfit, hv⟩, ht⟩

/-- `storeRange` answers a state only where each access is possible; then the bytes of the range hold its
registers, and every other byte and all else are as they were. -/
theorem storeRange_eq_ok {file : FileName} {count : Nat} {r : RegNum} {a : Nat} {s t : State}
    (h : storeRange file count r a s = .ok t) (hr : r.toNat + count ≤ 8)
    (hv : ∀ q : RegNum, s.readFile file q < 256 ^ s.elementBytes file) :
    RangeClear s a (s.elementBytes file) count ∧ t = s.setMem t.mem ∧
      SameOutsideRange s t.mem a (s.elementBytes file) count ∧
      (∀ q : RegNum, r.toNat ≤ q.toNat ∧ q.toNat < r.toNat + count →
        Holds t.mem (s.wrapAddr (a + (q.toNat - r.toNat) * s.elementBytes file)) (s.elementBytes file)
          (s.readFile file q)) := by
  induction count generalizing r a s with
  | zero =>
    simp only [storeRange, Except.ok.injEq] at h
    subst h
    exact ⟨fun j hj => by omega, rfl, fun _ _ => rfl, fun q hq => by omega⟩
  | succ count ih =>
    simp only [storeRange, Except.bind_eq_ok_iff, memWrite_eq_ok_iff] at h
    obtain ⟨s', ⟨hfit, hclear, rfl⟩, h⟩ := h
    have hst := stored_writeBytes (m := s.mem) (a := s.wrapAddr a) (hv r)
    by_cases hc : count = 0
    · subst hc
      simp only [storeRange, Except.ok.injEq] at h
      subst h
      refine ⟨rangeClear_succ.2 ⟨⟨hfit, hclear⟩, fun j hj => by omega⟩, rfl, ?_, ?_⟩
      · intro k hk
        exact hst.2 k (by simpa using hk 0 (by omega))
      · intro q hq
        have : q = r := BitVec.eq_of_toNat_eq (by omega)
        subst this
        simpa using hst.1
    · have hr1 := regNum_succ_toNat (r := r) (by omega)
      obtain ⟨h1, h2, h3, h4⟩ := ih h (by omega) (by simpa using hv)
      simp only [RangeClear, SameOutsideRange, ClearOfText, State.setMem_elementBytes, State.setMem_addrLimit,
        State.setMem_wrapAddr, State.setMem_params, State.setMem_mem, State.setMem_readFile] at h1 h3 h4
      refine ⟨rangeClear_succ.2 ⟨⟨hfit, hclear⟩, h1⟩, ?_, ?_, ?_⟩
      · rw [h2]
        rfl
      · intro k hk
        obtain ⟨hk0, hk⟩ := (range_head_tail (P := fun b => k < s.wrapAddr b ∨
          s.wrapAddr b + s.elementBytes file ≤ k)).1 hk
        rw [h3 k hk, hst.2 k hk0]
      · intro q hq
        by_cases hqr : q = r
        · subst hqr
          simp only [Nat.sub_self, Nat.zero_mul, Nat.add_zero]
          refine hst.1.congr fun k hk => h3 _ fun j hj => ?_
          have h16 := s.elementBytes_le file
          have hj : j * s.elementBytes file ≤ 7 * 16 := Nat.mul_le_mul (by omega) h16
          have hmin := s.addrLimit_ge
          have := s.wrapAddr_apart (a := a) (d := s.elementBytes file + j * s.elementBytes file)
            (e := s.elementBytes file) (by omega) (by omega)
          rw [← Nat.add_assoc] at this
          omega
        · have hne : q.toNat ≠ r.toNat := fun e => hqr (BitVec.eq_of_toNat_eq e)
          have := h4 q (by omega)
          rwa [range_place (by omega)] at this

/-- A store of a range keeps the canonical form of memory. -/
theorem storeRange_wf {file : FileName} {count : Nat} {r : RegNum} {a : Nat} {s t : State}
    (h : storeRange file count r a s = .ok t) (hw : s.mem.wf = true) : t.mem.wf = true := by
  induction count generalizing r a s with
  | zero =>
    simp only [storeRange, Except.ok.injEq] at h
    exact h ▸ hw
  | succ n ih =>
    simp only [storeRange, Except.bind_eq_ok_iff] at h
    obtain ⟨u, hu, h⟩ := h
    exact ih h (memWrite_wf hu hw)

theorem storeRange_completes (file : FileName) (count : Nat) (r : RegNum) (a : Nat) (s : State)
    (hc : RangeClear s a (s.elementBytes file) count) : ∃ t, storeRange file count r a s = .ok t := by
  induction count generalizing r a s with
  | zero => exact ⟨s, rfl⟩
  | succ count ih =>
    obtain ⟨⟨hfit, h0⟩, hc⟩ := rangeClear_succ.1 hc
    obtain ⟨t, ht⟩ := ih (r + 1) (a + s.elementBytes file)
      (s.setMem (s.mem.writeBytes (s.wrapAddr a) (toBigEndian (s.elementBytes file) (s.readFile file r))))
      (by simpa [RangeClear, ClearOfText] using hc)
    refine ⟨t, ?_⟩
    simp only [storeRange, Except.bind_eq_ok_iff, memWrite_eq_ok_iff]
    exact ⟨_, ⟨hfit, h0, rfl⟩, ht⟩

/-! ### Accesses that cannot be made -/

/-- The first byte that nothing has supplied is the one a read reports. -/
theorem Memory.readBytes_unsupplied {m : Memory} {a n k : Nat} (hk : k < n) (hm : Mapped m a k)
    (hn : m.read (a + k) = none) : m.readBytes a n = .error (.unmappedAccess (a + k)) := by
  cases hr : m.readBytes a n with
  | ok vs =>
    have := ((m.readBytes_bigEndian_iff a n _).1 ⟨vs, hr, rfl⟩).mapped k hk
    simp [hn] at this
  | error e =>
    obtain ⟨k', hk', hn', hj, rfl⟩ := Memory.readBytes_error hr
    have h1 : ¬ k < k' := fun h => by simpa [hn] using hj k h
    have h2 : ¬ k' < k := fun h => by simpa [hn'] using hm k' h
    rw [show k' = k by omega]

theorem firstInText_eq_first {p : Params} {a n k : Nat} (hk : k < n) (hc : ∀ j, j < k → inText p (a + j) = false)
    (ht : inText p (a + k) = true) : firstInText p a n = some (a + k) := by
  cases hf : firstInText p a n with
  | none => simp [(firstInText_eq_none_iff p a n).1 hf k hk] at ht
  | some b =>
    induction n generalizing a k with
    | zero => omega
    | succ n ih =>
      simp only [firstInText] at hf
      split at hf
      · rename_i h0
        cases k with
        | zero => simpa using hf.symm
        | succ k => simpa [h0] using hc 0 (by omega)
      · rename_i h0
        cases k with
        | zero => simp_all
        | succ k =>
          have := ih (a := a + 1) (k := k) (by omega) (fun j hj => by simpa [Nat.add_assoc, Nat.add_comm 1] using hc (j + 1) (by omega))
            (by simpa [Nat.add_assoc, Nat.add_comm 1] using ht) hf
          simpa [Nat.add_assoc, Nat.add_comm 1] using this

/-- A load that cannot be made. -/
theorem memRead_stops {s : State} {a n : Nat} {why : Fault} (h : LoadStops s a n why) :
    memRead s a n = .error why := by
  unfold memRead
  rcases h with ⟨hl, rfl⟩ | ⟨hl, k, hk, hm, hn, rfl⟩
  · rw [if_neg (by omega)]
  · rw [if_pos hl, Memory.readBytes_unsupplied hk hm hn]

/-- A store that cannot be made. -/
theorem memWrite_stops {s : State} {a n v : Nat} {why : Fault} (h : StoreStops s a n why) :
    memWrite s a n v = .error why := by
  unfold memWrite
  rcases h with ⟨hl, rfl⟩ | ⟨hl, k, hk, hm, ht, rfl⟩
  · rw [if_neg (by omega)]
  · rw [if_pos hl, firstInText_eq_first hk hm ht]

/-- A load of a range stops at its first element that cannot be loaded. -/
theorem loadRange_stops {file : FileName} {count : Nat} {r : RegNum} {a : Nat} {s : State} {why : Fault}
    (h : RangeLoadStops s a (s.elementBytes file) count why) : loadRange file count r a s = .error why := by
  obtain ⟨j, hj, hm, h⟩ := h
  induction j generalizing count r a s with
  | zero =>
    obtain ⟨count, rfl⟩ : ∃ c, count = c + 1 := ⟨count - 1, by omega⟩
    simp only [Nat.zero_mul, Nat.add_zero] at h
    simp only [loadRange, memRead_stops h, bind, Except.bind]
  | succ j ih =>
    obtain ⟨count, rfl⟩ : ∃ c, count = c + 1 := ⟨count - 1, by omega⟩
    obtain ⟨⟨hfit, h0⟩, hm⟩ := rangeMapped_succ.1 hm
    obtain ⟨v, hv⟩ := h0.holds
    simp only [loadRange, (memRead_eq_ok_iff s _ _ v).2 ⟨hfit, hv⟩, bind, Except.bind]
    apply ih
    · omega
    · simpa [RangeMapped] using hm
    · rw [show a + (j + 1) * s.elementBytes file = a + s.elementBytes file + j * s.elementBytes file by ring] at h
      simpa [LoadStops] using h

/-- A store of a range stops at its first element that cannot be stored. -/
theorem storeRange_stops {file : FileName} {count : Nat} {r : RegNum} {a : Nat} {s : State} {why : Fault}
    (h : RangeStoreStops s a (s.elementBytes file) count why) : storeRange file count r a s = .error why := by
  obtain ⟨j, hj, hm, h⟩ := h
  induction j generalizing count r a s with
  | zero =>
    obtain ⟨count, rfl⟩ : ∃ c, count = c + 1 := ⟨count - 1, by omega⟩
    simp only [Nat.zero_mul, Nat.add_zero] at h
    simp only [storeRange, memWrite_stops h, bind, Except.bind]
  | succ j ih =>
    obtain ⟨count, rfl⟩ : ∃ c, count = c + 1 := ⟨count - 1, by omega⟩
    obtain ⟨⟨hfit, h0⟩, hm⟩ := rangeClear_succ.1 hm
    simp only [storeRange, (memWrite_eq_ok_iff s _ _ _ (s.readFile file r)).2 ⟨hfit, h0, rfl⟩, bind, Except.bind]
    apply ih
    · omega
    · simpa [RangeClear, ClearOfText] using hm
    · rw [show a + (j + 1) * s.elementBytes file = a + s.elementBytes file + j * s.elementBytes file by ring] at h
      simpa [StoreStops, ClearOfText] using h

/-! ### Flags and narrow operands -/

theorem setFlags_flagsAfter (c v : Option Bool) (r : Option Sign) (s : State) :
    FlagsAfter s (setFlags c v r s) c v r := by
  simp only [FlagsAfter, setFlags, State.nextDraw_sw, State.setSw_sw]
  refine ⟨?_, ?_, ?_, ?_⟩
  · rintro z rfl
    rfl
  · rintro z rfl
    rfl
  · rintro z rfl
    rfl
  · intro hp
    rw [hp]
    refine ⟨?_, ?_, ?_⟩ <;> rintro rfl <;> rfl

theorem setFlags_frame (c v : Option Bool) (r : Option Sign) (s : State) :
    setFlags c v r s = { s with sw := (setFlags c v r s).sw, draws := s.draws + 1 } := rfl

theorem writeNarrow_narrowAfter {w : Nat} (hw : w ≤ 32) (r : RegNum) (v : BitVec w) (s : State) :
    NarrowAfter s (s.x.read r) ((writeNarrow r v s).x.read r) v := by
  simp only [NarrowAfter, writeNarrow, State.setX_x, RegFile.read_write_same]
  constructor
  · ext i hi
    simp only [BitVec.getElem_setWidth, BitVec.getLsbD_or, BitVec.getLsbD_shiftLeft, BitVec.getLsbD_setWidth]
    have : i < 32 := by omega
    simp [hi, this]
  · intro hp i hi
    simp only [upperSource, hp, BitVec.getLsbD_or, BitVec.getLsbD_shiftLeft, BitVec.getLsbD_ushiftRight,
      BitVec.getLsbD_setWidth]
    by_cases h32 : i < 32
    · have h1 : ¬ i < w := by omega
      have h2 : w + (i - w) = i := by omega
      simp [h32, h1, h2, BitVec.getLsbD_of_ge v i hi]
    · simp [h32, BitVec.getLsbD_of_ge (s.x.read r) i (by omega)]

theorem writeNarrow_frame {w : Nat} (r : RegNum) (v : BitVec w) (s : State) :
    writeNarrow r v s = { s with x := s.x.write r ((writeNarrow r v s).x.read r) } := by
  simp only [writeNarrow, State.setX, RegFile.read_write_same]

/-- A pair read back after it is written. -/
theorem readPair_writePair (r : RegNum) (v : Long) (s : State) (h : r.getLsbD 0 = false) :
    readPair r (writePair r v s) = v := by
  have hne : r ≠ r + 1 := by
    revert r
    decide
  simp only [readPair, writePair, State.setX_x, RegFile.read_write, hne, ↓reduceIte]
  ext i hi
  rw [BitVec.getElem_append]
  split
  · simp [BitVec.getLsbD_eq_getElem, *]
  · rename_i hge
    simp only [BitVec.getElem_extractLsb']
    rw [BitVec.getLsbD_eq_getElem (by omega)]
    congr 1
    omega

end Sys2Proof.Machine
end

