-- ==== Sys2Proof/Laws/Families.lean ====
section
/-! SUPPORT. What the operations shared by a family of instructions do: transfers, data-processing
instructions, and the arithmetic of extensible shifts, shifts, normalize and the Q operations. -/

namespace Sys2Proof.Machine

/-! ### Transfers -/

theorem outcomeOf_next {r : Except Fault State} {t : State} (h : r = .ok t) : outcomeOf r = .next t := by
  rw [h]; rfl

theorem advance_completes {len : Nat} {s : State} (h : s.pc.toNat + len < s.addrLimit) :
   advance len s = .ok { s with pc := s.pc + BitVec.ofNat 64 len } := (advance_eq_ok_iff _ _ _).2 ⟨h, rfl⟩

theorem transferTo_completes {a : Addr} {s : State} (h : a.getLsbD 0 = false) :
    transferTo a s = .ok { s with pc := a } :=
  (transferTo_eq_ok_iff _ _ _).2 ⟨h, rfl⟩

theorem JumpsTo.lt {s rX rB addr a} (h : JumpsTo s rX rB addr a) : rX ≠ 0 → a.toNat < s.addrLimit := by
  intro hx
  rcases h with ⟨h,-⟩ | ⟨-,h1,h2⟩
  · exact absurd h hx
  · rw [s.addrLimit_eq]; exact h2.1

theorem condJump_spec (c : Cond) (w : Status) (rX rB : RegNum) (addr : Half) (s : State) :
    (∀ a, condHolds c w = true → JumpsTo s rX rB addr a → a.getLsbD 0 = false →
        outcomeOf (condJump c w rX rB addr s) = .next { s with pc := a }) ∧
        (condHolds c w = false → s.pc.toNat + 4 < s.addrLimit →
          outcomeOf (condJump c w rX rB addr s) = .next { s with pc := s.pc + 4 }) := by
  constructor
  · intro a hc hj ha
    apply outcomeOf_next
    unfold condJump
    rw [if_pos hc, Except.bind_eq_ok_iff]
    exact ⟨a, (jumpTarget_eq_ok_iff _ _ _ _ _ (JumpsTo.lt hj)).2 hj, transferTo_completes ha⟩
  · intro hc hp
    apply outcomeOf_next
    unfold condJump
    rw [hc]
    exact advance_completes hp

theorem condJump_odd_target (c : Cond) (w : Status) (rX rB : RegNum) (addr : Half) (s : State) (a : Addr)
   (hc : condHolds c w = true) (hj : JumpsTo s rX rB addr a) (ha : a.getLsbD 0 = true) :
        outcomeOf (condJump c w rX rB addr s) = .fault (.misalignedTarget a) := by
  rw [outcomeOf_eq_fault_iff]
  unfold condJump
  rw [if_pos hc]
  rw [(jumpTarget_eq_ok_iff _ _ _ _ _ (JumpsTo.lt hj)).2 hj]
  show transferTo a s = _
  unfold transferTo
  rw [if_pos ha]

theorem relativeTarget_completes {s : State} {len : Nat} {d : Int} {a : Addr}
    (h : (a.toNat : Int) = s.pc.toNat + len + 2 * d) (hl : a.toNat < s.addrLimit) :
   relativeTarget s len d = .ok a := by
  rw [relativeTarget_eq_ok_iff, ← h]
  refine ⟨by omega, by exact_mod_cast hl, by simp⟩

theorem relative_even {a pc : Addr} {len : Nat} {d : Int} (h : (a.toNat : Int) = pc.toNat + len + 2 * d)
    (hp : pc.getLsbD 0 = false) (hl : len % 2 = 0) :
   a.getLsbD 0 = false := by
  rw [addr_even_iff] at *
  omega

theorem longBranch_spec (c : Cond) (disp : Half) (s : State) :
      (∀ a : Addr, condHolds c s.sw = true → s.pc.getLsbD 0 = false →
        (a.toNat : Int) = s.pc.toNat + 4 + 2 * disp.toInt → a.toNat < s.addrLimit →
        outcomeOf (longBranch c disp s) = .next { s with pc := a }) ∧
        (condHolds c s.sw = false → s.pc.toNat + 4 < s.addrLimit →
          outcomeOf (longBranch c disp s) = .next { s with pc := s.pc + 4 }) := by
  constructor
  · intro a hc hp ha hl
    apply outcomeOf_next
    unfold longBranch
    rw [if_pos hc, relativeTarget_completes ha hl]
    exact transferTo_completes (relative_even (len := 4) ha hp rfl)
  · intro hc hp
    apply outcomeOf_next
    unfold longBranch
    rw [hc]
    exact advance_completes hp

theorem branch_spec (c : Cond) (disp : BitVec 6) (s : State) :
      (∀ a : Addr, condHolds c s.sw = true → s.pc.getLsbD 0 = false →
        (a.toNat : Int) = s.pc.toNat + 2 + 2 * disp.toInt → a.toNat < s.addrLimit →
        outcomeOf (branch c disp s) = .next { s with pc := a }) ∧
        (condHolds c s.sw = false → s.pc.toNat + 2 < s.addrLimit →
          outcomeOf (branch c disp s) = .next { s with pc := s.pc + 2 }) := by
  constructor
  · intro a hc hp ha hl
    apply outcomeOf_next
    unfold branch
    rw [if_pos hc, relativeTarget_completes ha hl]
    exact transferTo_completes (relative_even (len := 2) ha hp rfl)
  · intro hc hp
    apply outcomeOf_next
    unfold branch
    rw [hc]
    exact advance_completes hp

theorem returnIf_spec (c : Cond) (s : State) :
  (∀ v : Addr, condHolds c s.sw = true → s.addrBytes ≤ (s.b.read 0).toNat →
        (s.b.read 0).toNat ≤ s.addrLimit →
        Holds s.mem ((s.b.read 0).toNat - s.addrBytes) s.addrBytes v.toNat →
        (v.getLsbD 0 = false →
          ∃ sp, outcomeOf (returnIf c s) = .next { s with b := s.b.write 0 sp, pc := v } ∧
            sp.toNat = (s.b.read 0).toNat - s.addrBytes) ∧
          (v.getLsbD 0 = true → outcomeOf (returnIf c s) = .fault (.misalignedTarget v))) ∧
        (condHolds c s.sw = true → (s.b.read 0).toNat < s.addrBytes →
          outcomeOf (returnIf c s) = .fault (.addressWrap ((s.b.read 0).toNat - s.addrBytes))) ∧
        (condHolds c s.sw = false → s.pc.toNat + 2 < s.addrLimit →
          outcomeOf (returnIf c s) = .next { s with pc := s.pc + 2 }) := by
  refine ⟨?_, ?_, ?_⟩
  · intro v hc hb hl hm
    have hv : BitVec.ofNat 64 v.toNat = v := by simp
    constructor
    · intro he
      refine ⟨_, outcomeOf_next ?_, addr_sub_toNat hb⟩
      unfold returnIf
      rw [if_pos hc, popReturn_eq_ok_iff]
      refine ⟨hb, v.toNat, by omega, hm, by rwa [hv], by rw [hv]; rfl⟩
    · intro ho
      rw [outcomeOf_eq_fault_iff]
      unfold returnIf popReturn
      rw [if_pos hc, (shrinkStack_eq_ok_iff _ _ _).2 ⟨hb, rfl⟩]
      show (memRead _ _ _ >>= fun t => transferTo (BitVec.ofNat 64 t) _) = _
      rw [(memRead_eq_ok_iff _ _ _ v.toNat).2]
      · show transferTo (BitVec.ofNat 64 v.toNat) _ = _
        rw [hv]; unfold transferTo; rw [if_pos ho]
      · rw [State.setB_b, RegFile.read_write_same, addr_sub_toNat hb]
        refine ⟨?_, hm⟩
        simp only [State.setB_addrLimit]
        omega
  · intro hc hb
    rw [outcomeOf_eq_fault_iff]
    unfold returnIf popReturn shrinkStack
    rw [if_pos hc, if_neg (by omega)]
    rfl
  · intro hc hp
    apply outcomeOf_next
    unfold returnIf
    rw [hc]
    exact advance_completes hp

/-! ### Data-processing instructions -/

/-- The end of an instruction that has changed `x` only: flags, then the next instruction in sequence. -/
theorem finish_integer {s u : State} {len : Nat} {c v : Option Bool} {r : Option Sign}
    (hu : u = { s with x := u.x }) (hp : s.pc.toNat + len < s.addrLimit) :
    ∃ t, advance len (setFlags c v r u) = .ok t ∧
      t = { s with x := t.x, sw := t.sw, draws := t.draws, pc := s.pc + BitVec.ofNat 64 len } ∧
     FlagsAfter s t c v r ∧ t.x = u.x := by
  have hpc : u.pc = s.pc := by rw [hu]
  have hl : u.addrLimit = s.addrLimit := by rw [hu]; rfl
  have hf := setFlags_flagsAfter c v r u
  have hsw : u.sw = s.sw := by rw [hu]
  have hpar : u.params = s.params := by rw [hu]
  refine ⟨{ setFlags c v r u with pc := s.pc + BitVec.ofNat 64 len }, ?_, ?_, ?_, rfl⟩
  · rw [advance_completes]
    · have : (setFlags c v r u).pc = s.pc := hpc
      rw [this]
    · show u.pc.toNat + len < u.addrLimit
      rw [hpc, hl]; exact hp
  · unfold setFlags State.nextDraw State.setSw
    rw [hu]
  · unfold FlagsAfter at *
    rw [hsw, hpar] at hf
    exact hf

/-- The end of an instruction that has changed `f` only. -/
theorem finish_floating {s u : State} {len : Nat} {c v : Option Bool} {r : Option Sign}
    (hu : u = { s with f := u.f }) (hp : s.pc.toNat + len < s.addrLimit) :
    ∃ t, advance len (setFlags c v r u) = .ok t ∧
      t = { s with f := u.f, sw := t.sw, draws := t.draws, pc := s.pc + BitVec.ofNat 64 len } ∧
     FlagsAfter s t c v r ∧ t.f = u.f := by
  have hpc : u.pc = s.pc := by rw [hu]
  have hl : u.addrLimit = s.addrLimit := by rw [hu]; rfl
  have hf := setFlags_flagsAfter c v r u
  have hsw : u.sw = s.sw := by rw [hu]
  have hpar : u.params = s.params := by rw [hu]
  refine ⟨{ setFlags c v r u with pc := s.pc + BitVec.ofNat 64 len }, ?_, ?_, ?_, rfl⟩
  · rw [advance_completes]
    · have : (setFlags c v r u).pc = s.pc := hpc
      rw [this]
    · show u.pc.toNat + len < u.addrLimit
      rw [hpc, hl]; exact hp
  · unfold setFlags State.nextDraw State.setSw
    rw [hu]
  · unfold FlagsAfter at *
    rw [hsw, hpar] at hf
    exact hf

theorem regNum_ne_succ (r : RegNum) : r ≠ r + 1 := by revert r; decide

theorem writePair_read_other (s : State) (r : RegNum) (v : Long) (q : RegNum) (h1 : q ≠ r) (h2 : q ≠ r + 1) :
    (writePair r v s).x.read q = s.x.read q := by
  have h2' : q ≠ r + 1#3 := h2
  simp only [writePair, State.setX_x, RegFile.read_write, h1, h2, if_false]

/-! ### Extensible shifts -/

/-- Each bit of a combined destination (42_extensible_shift.md R223, R224); the source stands at bit `p`. -/
theorem combined_getLsbD (left : Bool) (conn : BitVec 4) (n p : Nat) (src : Word) (d : Long) (hn : n ≤ 32)
    (hp : p = if left then n else 32 - n) (i : Nat) :
  (p ≤ i → i < p + 32 →
    (combined left conn n src d).getLsbD i =
      conn.getLsbD (3 - (2 * (src.getLsbD (i - p)).toNat + (d.getLsbD i).toNat))) ∧
  (i < p ∨ p + 32 ≤ i → (combined left conn n src d).getLsbD i = d.getLsbD i) := by
  have hprep : ∀ s : Word, (preparedSource left n s).getLsbD i = (decide (p ≤ i) && s.getLsbD (i - p)) := by
    intro s
    unfold preparedSource
    cases left
    · simp only [Bool.false_eq_true, ↓reduceIte] at hp ⊢
      simp only [BitVec.getLsbD_ushiftRight, BitVec.getLsbD_shiftLeft, BitVec.getLsbD_setWidth]
      by_cases h : p ≤ i
      · have e : n + i - 32 = i - p := by omega
        have h1 : ¬ n + i < 32 := by omega
        rw [e]
        by_cases h2 : n + i < 64
        · have h3 : i - p < 64 := by omega
          simp [h, h1, h2, h3]
        · have : s.getLsbD (i - p) = false := BitVec.getLsbD_of_ge _ _ (by omega)
          simp [h2, this]
      · have h1 : n + i < 32 := by omega
        simp [h, h1]
    · simp only [↓reduceIte] at hp ⊢
      simp only [BitVec.getLsbD_shiftLeft, BitVec.getLsbD_setWidth]
      subst hp
      by_cases h : p ≤ i
      · have h1 : ¬ i < p := by omega
        by_cases h2 : i < 64
        · have h3 : i - p < 64 := by omega
          simp [h, h1, h2, h3]
        · have : s.getLsbD (i - p) = false := BitVec.getLsbD_of_ge _ _ (by omega)
          simp [h2, this]
      · have h1 : i < p := by omega
        simp [h, h1]
  have hp32 : p ≤ 32 := by cases left <;> simp at hp <;> omega
  have hmask : (sourceMask left n).getLsbD i = decide (p ≤ i ∧ i < p + 32) := by
    unfold sourceMask
    rw [hprep, BitVec.getLsbD_allOnes]
    by_cases h : p ≤ i
    · simp [h]; omega
    · simp [h]
  have hsp : ∀ b : Bool, i < 64 → (spread b).getLsbD i = b := by
    intro b hi
    unfold spread
    cases b
    · simp
    · simp only [if_true, BitVec.getLsbD_allOnes, hi, decide_true]
  unfold combined
  constructor
  · intro h1 h2
    have hi : i < 64 := by omega
    simp only [BitVec.getLsbD_or, BitVec.getLsbD_and, BitVec.getLsbD_not, hmask, h1, h2, connect, hsp _ hi, hi,
      hprep, decide_true, Bool.true_and, and_self, Bool.not_true, Bool.and_false, Bool.false_and,
      Bool.or_false]
    cases src.getLsbD (i - p) <;> cases d.getLsbD i <;> simp
  · intro h
    have hm : (sourceMask left n).getLsbD i = false := by rw [hmask]; simp; omega
    simp only [BitVec.getLsbD_or, BitVec.getLsbD_and, BitVec.getLsbD_not, hm]
    by_cases hi : i < 64
    · simp [hi]
    · simp [hi, BitVec.getLsbD_of_ge d i (by omega)]

/-! ### Shifts -/

theorem rotate_add_eq_or {w n v : Nat} (hv : v < 2 ^ w) (hn : n ≤ w) :
    v * 2 ^ n % 2 ^ w + v / 2 ^ (w - n) = v * 2 ^ n % 2 ^ w ||| v / 2 ^ (w - n) := by
  have e : v * 2 ^ n % 2 ^ w = (v % 2 ^ (w - n)) <<< n := by
    rw [Nat.shiftLeft_eq, ← Nat.mul_mod_mul_right, ← pow_add, Nat.sub_add_cancel hn]
  have hb : v / 2 ^ (w - n) < 2 ^ n := by
    rw [Nat.div_lt_iff_lt_mul (by positivity), ← pow_add, Nat.add_comm, Nat.sub_add_cancel hn]; exact hv
  rw [e, Nat.shiftLeft_add_eq_or_of_lt hb]

/-- A shift's result and carry are what the formulas of 43_shifts.md R234 say. -/
theorem shiftResult_formula {w : Nat} (op : ShiftOp) (n : Nat) (c : Bool) (v : BitVec w) (hn : n < w) :
    ShiftFormula op n c v (shiftResult op n c v) (shiftCarry op n c v) := by
  cases op <;> simp only [ShiftFormula, shiftResult, shiftCarry, and_true]
  · rw [BitVec.toNat_shiftLeft, Nat.shiftLeft_eq]
  · rw [BitVec.toNat_ushiftRight, Nat.shiftRight_eq_div_pow]
  · rw [BitVec.toInt_sshiftRight, Int.shiftRight_eq_div_pow]; norm_cast
  · rw [BitVec.toNat_rotateLeft, Nat.mod_eq_of_lt hn, Nat.shiftLeft_eq, Nat.shiftRight_eq_div_pow]
    exact (rotate_add_eq_or v.isLt (by omega)).symm
  · rw [BitVec.toNat_rotateRight, Nat.mod_eq_of_lt hn, Nat.shiftLeft_eq, Nat.shiftRight_eq_div_pow]
    have := rotate_add_eq_or (w := w) (n := w - n) v.isLt (by omega)
    rw [show w - (w - n) = n by omega] at this
    rw [Nat.add_comm, this, Nat.or_comm]
  · have hb : ∀ i, i < w + 1 →
        ((BitVec.cons c v).rotateLeft n).getLsbD i = carryBit c v ((i + (w + 1) - n) % (w + 1)) := by
      intro i hi
      rw [BitVec.getLsbD_rotateLeft, Nat.mod_eq_of_lt (by omega : n < w + 1), BitVec.getLsbD_cons,
        BitVec.getLsbD_cons]
      unfold carryBit
      by_cases h : i < n
      · have e : (i + (w + 1) - n) % (w + 1) = w + 1 - n + i := by rw [Nat.mod_eq_of_lt (by omega)]; omega
        rw [e]; simp [h]
      · have e : (i + (w + 1) - n) % (w + 1) = i - n := by
          rw [show i + (w + 1) - n = (i - n) + (w + 1) by omega, Nat.add_mod_right, Nat.mod_eq_of_lt (by omega)]
        rw [e]; simp [h, hi]
    constructor
    · intro i hi
      rw [BitVec.getLsbD_setWidth, hb i (by omega)]
      simp [hi]
    · congr 1
      rw [BitVec.msb_eq_getLsbD_last, Nat.add_sub_cancel, hb w (by omega)]
      congr 1
      rw [show w + (w + 1) - n = (w - n) + (w + 1) by omega, Nat.add_mod_right, Nat.mod_eq_of_lt (by omega)]
  · have hb : ∀ i, i < w + 1 →
        ((BitVec.cons c v).rotateRight n).getLsbD i = carryBit c v ((i + n) % (w + 1)) := by
      intro i hi
      rw [BitVec.getLsbD_rotateRight, Nat.mod_eq_of_lt (by omega : n < w + 1), BitVec.getLsbD_cons,
        BitVec.getLsbD_cons]
      unfold carryBit
      by_cases h : i < w + 1 - n
      · have e : (i + n) % (w + 1) = n + i := by rw [Nat.mod_eq_of_lt (by omega)]; omega
        rw [e]; simp [h]
      · have e : (i + n) % (w + 1) = i - (w + 1 - n) := by
          rw [show i + n = (i - (w + 1 - n)) + (w + 1) by omega, Nat.add_mod_right, Nat.mod_eq_of_lt (by omega)]
        rw [e]; simp [h, hi]
    constructor
    · intro i hi
      rw [BitVec.getLsbD_setWidth, hb i (by omega)]
      simp [hi]
    · congr 1
      rw [BitVec.msb_eq_getLsbD_last, Nat.add_sub_cancel, hb w (by omega)]

/-! ### Single operands and normalize -/

theorem signOf_eq_signFormula {w : Nat} (v : BitVec w) : signOf v = signFormula v := by
  unfold signOf signFormula
  rw [BitVec.msb_eq_toInt]
  by_cases h : v.toInt < 0
  · simp [h]
  · simp only [h, decide_false, Bool.false_eq_true, if_false]
    have : v = 0 ↔ v.toInt = 0 := by
      constructor
      · rintro rfl; simp
      · intro e; exact BitVec.eq_of_toInt_eq (by simpa using e)
    by_cases h' : v.toInt = 0
    · rw [if_pos h', if_pos (this.2 h')]
    · rw [if_neg h', if_neg (fun e => h' (this.1 e))]

theorem mostNegative_eq {w : Nat} (hw : 0 < w) (v : BitVec w) :
    mostNegative v = decide (v.toNat = 2 ^ (w - 1)) := by
  unfold mostNegative
  have : (v = BitVec.intMin w) ↔ v.toNat = 2 ^ (w - 1) := by
    rw [← BitVec.toNat_inj, BitVec.toNat_intMin]
    rw [Nat.mod_eq_of_lt (Nat.pow_lt_pow_right (by omega) (by omega))]
  rw [Bool.eq_iff_iff]
  simp [this]

theorem neg_toNat_mod {w : Nat} (v : BitVec w) : (-v).toNat = (2 ^ w - v.toNat) % 2 ^ w := by
  simp [BitVec.toNat_neg]

theorem absolute_toNat {w : Nat} (v : BitVec w) :
    (absolute v).toNat = (if v.msb then (2 ^ w - v.toNat) % 2 ^ w else v.toNat) := by
  unfold absolute; split
  · rw [neg_toNat_mod]
  · rfl

theorem leadingZerosBelow_spec {w : Nat} (v : BitVec w) (m : Nat) :
   (∀ j, j < leadingZerosBelow v m → v.getLsbD (m - 1 - j) = false) ∧ leadingZerosBelow v m ≤ m ∧
   (leadingZerosBelow v m < m → v.getLsbD (m - 1 - leadingZerosBelow v m) = true) := by
  induction m with
  | zero => simp [leadingZerosBelow]
  | succ m ih =>
    simp only [leadingZerosBelow]
    split
    · rename_i h; simp [h]
    · rename_i h
      simp only [Bool.not_eq_true] at h
      refine ⟨?_, by omega, ?_⟩
      · intro j hj
        cases j with
        | zero => simpa using h
        | succ j => rw [show m + 1 - 1 - (j + 1) = m - 1 - j by omega]; exact ih.1 j (by omega)
      · intro hlt
        rw [show m + 1 - 1 - (1 + leadingZerosBelow v m) = m - 1 - leadingZerosBelow v m by omega]
        exact ih.2.2 (by omega)

/-- The count of a normalize is the least shift that sets the first bit (45_single_operand.md R312). -/
theorem leadingZeros_normalizes {w : Nat} (v : BitVec w) (hv : v ≠ 0) :
    NormalizedBy v (leadingZeros v) ∧ leadingZeros v < w := by
  have h := leadingZerosBelow_spec v w
  have hlt : leadingZeros v < w := by
    by_contra hge
    apply hv
    apply BitVec.eq_of_getLsbD_eq
    intro i hi
    have := h.1 (w - 1 - i) (by unfold leadingZeros at hge; omega)
    rw [show w - 1 - (w - 1 - i) = i by omega] at this
    rw [this]; simp
  refine ⟨⟨?_, ?_⟩, hlt⟩
  · rw [BitVec.msb_eq_getLsbD_last, BitVec.getLsbD_shiftLeft]
    have := h.2.2 hlt
    rw [show w - 1 - leadingZeros v = w - 1 - leadingZerosBelow v w from rfl, this]
    simp; omega
  · intro j hj
    rw [BitVec.msb_eq_getLsbD_last, BitVec.getLsbD_shiftLeft, h.1 j hj]
    simp

/-! ### Functions -/

theorem qOne_ne_qZero : qOne ≠ qZero := by
  unfold qOne; split
  · intro h
    have : (1 : Quad) = 0 := by
      have h' : qZero + 1 = qZero + 0 := by rw [h]; simp
      exact (BitVec.add_right_inj _).1 h' 
    exact absurd this (by decide)
  · assumption

theorem qMinusOne_ne : qMinusOne ≠ qZero ∧ qMinusOne ≠ qOne := by
  have cancel : ∀ a b : Quad, qZero + a = qZero + b → a = b := fun a b h => (BitVec.add_right_inj _).1 h 
  have z : qZero = qZero + 0 := by simp
  unfold qMinusOne
  split
  · split
    · rename_i h1 h2
      constructor
      · intro h; rw [z] at h
        have := cancel 2 0 (by simp at h)
        exact absurd this (by decide)
      · intro h; rw [← h2] at h
        exact absurd (cancel 2 1 h) (by decide)
    · rename_i h1 h2
      refine ⟨?_, h2⟩
      intro h; rw [z] at h
      have := cancel 1 0 (by simp at h)
      exact absurd this (by decide)
  · rename_i h; push Not at h; exact h

theorem fSign_constants : fSign .q qZero = .zero ∧ fSign .q qOne = .pos ∧ fSign .q qMinusOne = .neg := by
  obtain ⟨h1, h2⟩ := qMinusOne_ne
  refine ⟨by simp [fSign], by simp [fSign, qOne_ne_qZero], by simp [fSign, h1, h2]⟩

theorem fSign_qOfSign (g : Sign) : fSign .q (qOfSign g) = g := by
  obtain ⟨h1, h2, h3⟩ := fSign_constants
  cases g
  · exact h3
  · exact h1
  · exact h2

theorem fSign_qOpposite (a : Quad) : fSign .q (qOpposite a) = oppositeSign (fSign .q a) := by
  unfold qOpposite; split
  · assumption
  · exact fSign_qOfSign _

theorem fSign_qNegate (a : Quad) : fSign .q (qNegate a) = oppositeSign (fSign .q a) := by
  unfold qNegate; split
  · rename_i h; rw [h.1, fSign_constants.1]; rfl
  · exact fSign_qOpposite a

theorem qOrdinary_qZero : qOrdinary qZero = true := by
  have h : qNegate (qNegate qZero) = qZero := by
    by_cases h : qOpposite (qOpposite qZero) = qZero <;> simp [qNegate, h]
  simp [qOrdinary, h]

theorem qNegate_qNegate {a : Quad} (h : qOrdinary a = true) : qNegate (qNegate a) = a := by
  simp only [qOrdinary, Bool.and_eq_true, beq_iff_eq] at h
  exact h.2

theorem applyFunction_spec (ty : FpType) (fn : FpFn) (r : RegNum) (s : State)
    (hp : s.pc.toNat + 2 < s.addrLimit) :
    ∃ t, outcomeOf (applyFunction ty fn r s) = .next t ∧
      t = { s with
        f := s.f.write r (fpFunc ty fn (s.f.read r))
        sw := t.sw
        draws := t.draws
        pc := s.pc + 2 } ∧
      FlagsAfter s t none none (some (fSign ty (fpFunc ty fn (s.f.read r)))) ∧
      t.f.read r = fpFunc ty fn (s.f.read r) := by
  obtain ⟨t, h1, h2, h3, h4⟩ := finish_floating (len := 2) (c := none) (v := none)
    (r := some (fSign ty (fpFunc ty fn (s.f.read r)))) (s := s)
    (u := s.setF r (fpFunc ty fn (s.f.read r))) rfl hp
  exact ⟨t, outcomeOf_next h1, h2, h3, by rw [h4]; simp⟩

end Sys2Proof.Machine
end

