-- ==== Sys2Proof/Laws/PerInstr.lean ====
section
/-! SUPPORT. Facts about every instruction as syntax, one lemma for each constructor. -/

namespace Sys2Proof.Laws

/-- The encoder gives an instruction as many halfwords as its length says (30_encoding.md R80). -/
def EncodesToItsLength.Statement (i : Instr) : Prop :=
  ∀ (lay : EsLayout) (m : Mode), 2 * (encode lay m i).length = i.length

theorem EncodesToItsLength.lmu (r1 r2 rB : RegNum) (addr : Half) : EncodesToItsLength.Statement (.lmu r1 r2 rB addr) :=
  fun _ _ => rfl
theorem EncodesToItsLength.stmu (r1 r2 rB : RegNum) (addr : Half) : EncodesToItsLength.Statement (.stmu r1 r2 rB addr) :=
  fun _ _ => rfl
theorem EncodesToItsLength.lmubr (r1 r2 rB : RegNum) (addr : Half) : EncodesToItsLength.Statement (.lmubr r1 r2 rB addr) :=
  fun _ _ => rfl
theorem EncodesToItsLength.stmubr (r1 r2 rB : RegNum) (addr : Half) : EncodesToItsLength.Statement (.stmubr r1 r2 rB addr) :=
  fun _ _ => rfl
theorem EncodesToItsLength.lmuq (r1 r2 rB : RegNum) (addr : Half) : EncodesToItsLength.Statement (.lmuq r1 r2 rB addr) :=
  fun _ _ => rfl
theorem EncodesToItsLength.stmuq (r1 r2 rB : RegNum) (addr : Half) : EncodesToItsLength.Statement (.stmuq r1 r2 rB addr) :=
  fun _ _ => rfl
theorem EncodesToItsLength.slbr (r rB : RegNum) (addr : Half) : EncodesToItsLength.Statement (.slbr r rB addr) :=
  fun _ _ => rfl
theorem EncodesToItsLength.sstbr (r rB : RegNum) (addr : Half) : EncodesToItsLength.Statement (.sstbr r rB addr) :=
  fun _ _ => rfl
theorem EncodesToItsLength.slsb (r rB : RegNum) (addr : Half) : EncodesToItsLength.Statement (.slsb r rB addr) :=
  fun _ _ => rfl
theorem EncodesToItsLength.sssb (r rB : RegNum) (addr : Half) : EncodesToItsLength.Statement (.sssb r rB addr) :=
  fun _ _ => rfl
theorem EncodesToItsLength.slpsb (r rB : RegNum) (addr : Half) : EncodesToItsLength.Statement (.slpsb r rB addr) :=
  fun _ _ => rfl
theorem EncodesToItsLength.sspsb (r rB : RegNum) (addr : Half) : EncodesToItsLength.Statement (.sspsb r rB addr) :=
  fun _ _ => rfl
theorem EncodesToItsLength.slasb (r rB : RegNum) (addr : Half) : EncodesToItsLength.Statement (.slasb r rB addr) :=
  fun _ _ => rfl
theorem EncodesToItsLength.ssasb (r rB : RegNum) (addr : Half) : EncodesToItsLength.Statement (.ssasb r rB addr) :=
  fun _ _ => rfl
theorem EncodesToItsLength.lmuPop (r1 r2 : RegNum) : EncodesToItsLength.Statement (.lmuPop r1 r2) := fun _ _ => rfl
theorem EncodesToItsLength.stmuPush (r1 r2 : RegNum) : EncodesToItsLength.Statement (.stmuPush r1 r2) := fun _ _ => rfl
theorem EncodesToItsLength.lmubrPop (r1 r2 : RegNum) : EncodesToItsLength.Statement (.lmubrPop r1 r2) := fun _ _ => rfl
theorem EncodesToItsLength.stmubrPush (r1 r2 : RegNum) : EncodesToItsLength.Statement (.stmubrPush r1 r2) :=
  fun _ _ => rfl
theorem EncodesToItsLength.lmuqPop (r1 r2 : RegNum) : EncodesToItsLength.Statement (.lmuqPop r1 r2) := fun _ _ => rfl
theorem EncodesToItsLength.stmuqPush (r1 r2 : RegNum) : EncodesToItsLength.Statement (.stmuqPush r1 r2) :=
  fun _ _ => rfl
theorem EncodesToItsLength.jms (rR rX rB : RegNum) (addr : Half) : EncodesToItsLength.Statement (.jms rR rX rB addr) :=
  fun _ _ => rfl
theorem EncodesToItsLength.lbl (disp : Half) : EncodesToItsLength.Statement (.lbl disp) := fun _ _ => rfl
theorem EncodesToItsLength.lbe (disp : Half) : EncodesToItsLength.Statement (.lbe disp) := fun _ _ => rfl
theorem EncodesToItsLength.lble (disp : Half) : EncodesToItsLength.Statement (.lble disp) := fun _ _ => rfl
theorem EncodesToItsLength.lbh (disp : Half) : EncodesToItsLength.Statement (.lbh disp) := fun _ _ => rfl
theorem EncodesToItsLength.lbne (disp : Half) : EncodesToItsLength.Statement (.lbne disp) := fun _ _ => rfl
theorem EncodesToItsLength.lbhe (disp : Half) : EncodesToItsLength.Statement (.lbhe disp) := fun _ _ => rfl
theorem EncodesToItsLength.lbnv (disp : Half) : EncodesToItsLength.Statement (.lbnv disp) := fun _ _ => rfl
theorem EncodesToItsLength.lbv (disp : Half) : EncodesToItsLength.Statement (.lbv disp) := fun _ _ => rfl
theorem EncodesToItsLength.lbc (disp : Half) : EncodesToItsLength.Statement (.lbc disp) := fun _ _ => rfl
theorem EncodesToItsLength.lbnc (disp : Half) : EncodesToItsLength.Statement (.lbnc disp) := fun _ _ => rfl
theorem EncodesToItsLength.lbra (disp : Half) : EncodesToItsLength.Statement (.lbra disp) := fun _ _ => rfl
theorem EncodesToItsLength.lbxh (cR lR : RegNum) (disp : Half) : EncodesToItsLength.Statement (.lbxh cR lR disp) :=
  fun _ _ => rfl
theorem EncodesToItsLength.lbxle (cR lR : RegNum) (disp : Half) : EncodesToItsLength.Statement (.lbxle cR lR disp) :=
  fun _ _ => rfl
theorem EncodesToItsLength.lbrs (rR : RegNum) (disp : Half) : EncodesToItsLength.Statement (.lbrs rR disp) :=
  fun _ _ => rfl
theorem EncodesToItsLength.jl (rX rB : RegNum) (addr : Half) : EncodesToItsLength.Statement (.jl rX rB addr) :=
  fun _ _ => rfl
theorem EncodesToItsLength.je (rX rB : RegNum) (addr : Half) : EncodesToItsLength.Statement (.je rX rB addr) :=
  fun _ _ => rfl
theorem EncodesToItsLength.jle (rX rB : RegNum) (addr : Half) : EncodesToItsLength.Statement (.jle rX rB addr) :=
  fun _ _ => rfl
theorem EncodesToItsLength.jh (rX rB : RegNum) (addr : Half) : EncodesToItsLength.Statement (.jh rX rB addr) :=
  fun _ _ => rfl
theorem EncodesToItsLength.jne (rX rB : RegNum) (addr : Half) : EncodesToItsLength.Statement (.jne rX rB addr) :=
  fun _ _ => rfl
theorem EncodesToItsLength.jhe (rX rB : RegNum) (addr : Half) : EncodesToItsLength.Statement (.jhe rX rB addr) :=
  fun _ _ => rfl
theorem EncodesToItsLength.jnv (rX rB : RegNum) (addr : Half) : EncodesToItsLength.Statement (.jnv rX rB addr) :=
  fun _ _ => rfl
theorem EncodesToItsLength.jv (rX rB : RegNum) (addr : Half) : EncodesToItsLength.Statement (.jv rX rB addr) :=
  fun _ _ => rfl
theorem EncodesToItsLength.jc (rX rB : RegNum) (addr : Half) : EncodesToItsLength.Statement (.jc rX rB addr) :=
  fun _ _ => rfl
theorem EncodesToItsLength.jnc (rX rB : RegNum) (addr : Half) : EncodesToItsLength.Statement (.jnc rX rB addr) :=
  fun _ _ => rfl
theorem EncodesToItsLength.jmp (rX rB : RegNum) (addr : Half) : EncodesToItsLength.Statement (.jmp rX rB addr) :=
  fun _ _ => rfl
theorem EncodesToItsLength.jvl (rX rB : RegNum) (addr : Half) : EncodesToItsLength.Statement (.jvl rX rB addr) :=
  fun _ _ => rfl
theorem EncodesToItsLength.jve (rX rB : RegNum) (addr : Half) : EncodesToItsLength.Statement (.jve rX rB addr) :=
  fun _ _ => rfl
theorem EncodesToItsLength.jvle (rX rB : RegNum) (addr : Half) : EncodesToItsLength.Statement (.jvle rX rB addr) :=
  fun _ _ => rfl
theorem EncodesToItsLength.jvh (rX rB : RegNum) (addr : Half) : EncodesToItsLength.Statement (.jvh rX rB addr) :=
  fun _ _ => rfl
theorem EncodesToItsLength.jvne (rX rB : RegNum) (addr : Half) : EncodesToItsLength.Statement (.jvne rX rB addr) :=
  fun _ _ => rfl
theorem EncodesToItsLength.jvhe (rX rB : RegNum) (addr : Half) : EncodesToItsLength.Statement (.jvhe rX rB addr) :=
  fun _ _ => rfl
theorem EncodesToItsLength.jvnv (rX rB : RegNum) (addr : Half) : EncodesToItsLength.Statement (.jvnv rX rB addr) :=
  fun _ _ => rfl
theorem EncodesToItsLength.jvv (rX rB : RegNum) (addr : Half) : EncodesToItsLength.Statement (.jvv rX rB addr) :=
  fun _ _ => rfl
theorem EncodesToItsLength.jvc (rX rB : RegNum) (addr : Half) : EncodesToItsLength.Statement (.jvc rX rB addr) :=
  fun _ _ => rfl
theorem EncodesToItsLength.jvnc (rX rB : RegNum) (addr : Half) : EncodesToItsLength.Statement (.jvnc rX rB addr) :=
  fun _ _ => rfl
theorem EncodesToItsLength.jxh (cR lR rB : RegNum) (addr : Half) : EncodesToItsLength.Statement (.jxh cR lR rB addr) :=
  fun _ _ => rfl
theorem EncodesToItsLength.jxle (cR lR rB : RegNum) (addr : Half) : EncodesToItsLength.Statement (.jxle cR lR rB addr) :=
  fun _ _ => rfl
theorem EncodesToItsLength.esl (rD rS : RegNum) (conn : BitVec 4) (n : BitVec 6) : EncodesToItsLength.Statement (.esl rD rS conn n) :=
  fun _ _ => rfl
theorem EncodesToItsLength.esr (rD rS : RegNum) (conn : BitVec 4) (n : BitVec 6) : EncodesToItsLength.Statement (.esr rD rS conn n) :=
  fun _ _ => rfl
theorem EncodesToItsLength.shlb (r : RegNum) (n : BitVec 3) : EncodesToItsLength.Statement (.shlb r n) :=
  fun _ _ => rfl
theorem EncodesToItsLength.shrb (r : RegNum) (n : BitVec 3) : EncodesToItsLength.Statement (.shrb r n) :=
  fun _ _ => rfl
theorem EncodesToItsLength.asrb (r : RegNum) (n : BitVec 3) : EncodesToItsLength.Statement (.asrb r n) :=
  fun _ _ => rfl
theorem EncodesToItsLength.rolb (r : RegNum) (n : BitVec 3) : EncodesToItsLength.Statement (.rolb r n) :=
  fun _ _ => rfl
theorem EncodesToItsLength.rorb (r : RegNum) (n : BitVec 3) : EncodesToItsLength.Statement (.rorb r n) :=
  fun _ _ => rfl
theorem EncodesToItsLength.rlcb (r : RegNum) (n : BitVec 3) : EncodesToItsLength.Statement (.rlcb r n) :=
  fun _ _ => rfl
theorem EncodesToItsLength.rrcb (r : RegNum) (n : BitVec 3) : EncodesToItsLength.Statement (.rrcb r n) :=
  fun _ _ => rfl
theorem EncodesToItsLength.shlh (r : RegNum) (n : BitVec 4) : EncodesToItsLength.Statement (.shlh r n) :=
  fun _ _ => rfl
theorem EncodesToItsLength.shrh (r : RegNum) (n : BitVec 4) : EncodesToItsLength.Statement (.shrh r n) :=
  fun _ _ => rfl
theorem EncodesToItsLength.asrh (r : RegNum) (n : BitVec 4) : EncodesToItsLength.Statement (.asrh r n) :=
  fun _ _ => rfl
theorem EncodesToItsLength.rolh (r : RegNum) (n : BitVec 4) : EncodesToItsLength.Statement (.rolh r n) :=
  fun _ _ => rfl
theorem EncodesToItsLength.rorh (r : RegNum) (n : BitVec 4) : EncodesToItsLength.Statement (.rorh r n) :=
  fun _ _ => rfl
theorem EncodesToItsLength.rlch (r : RegNum) (n : BitVec 4) : EncodesToItsLength.Statement (.rlch r n) :=
  fun _ _ => rfl
theorem EncodesToItsLength.rrch (r : RegNum) (n : BitVec 4) : EncodesToItsLength.Statement (.rrch r n) :=
  fun _ _ => rfl
theorem EncodesToItsLength.shl (r : RegNum) (n : BitVec 5) : EncodesToItsLength.Statement (.shl r n) := fun _ _ => rfl
theorem EncodesToItsLength.shr (r : RegNum) (n : BitVec 5) : EncodesToItsLength.Statement (.shr r n) := fun _ _ => rfl
theorem EncodesToItsLength.asr (r : RegNum) (n : BitVec 5) : EncodesToItsLength.Statement (.asr r n) := fun _ _ => rfl
theorem EncodesToItsLength.rol (r : RegNum) (n : BitVec 5) : EncodesToItsLength.Statement (.rol r n) := fun _ _ => rfl
theorem EncodesToItsLength.ror (r : RegNum) (n : BitVec 5) : EncodesToItsLength.Statement (.ror r n) := fun _ _ => rfl
theorem EncodesToItsLength.rlc (r : RegNum) (n : BitVec 5) : EncodesToItsLength.Statement (.rlc r n) := fun _ _ => rfl
theorem EncodesToItsLength.rrc (r : RegNum) (n : BitVec 5) : EncodesToItsLength.Statement (.rrc r n) := fun _ _ => rfl
theorem EncodesToItsLength.shll (r : RegNum) (n : BitVec 6) : EncodesToItsLength.Statement (.shll r n) :=
  fun _ _ => rfl
theorem EncodesToItsLength.shrl (r : RegNum) (n : BitVec 6) : EncodesToItsLength.Statement (.shrl r n) :=
  fun _ _ => rfl
theorem EncodesToItsLength.asrl (r : RegNum) (n : BitVec 6) : EncodesToItsLength.Statement (.asrl r n) :=
  fun _ _ => rfl
theorem EncodesToItsLength.roll (r : RegNum) (n : BitVec 6) : EncodesToItsLength.Statement (.roll r n) :=
  fun _ _ => rfl
theorem EncodesToItsLength.rorl (r : RegNum) (n : BitVec 6) : EncodesToItsLength.Statement (.rorl r n) :=
  fun _ _ => rfl
theorem EncodesToItsLength.rlcl (r : RegNum) (n : BitVec 6) : EncodesToItsLength.Statement (.rlcl r n) :=
  fun _ _ => rfl
theorem EncodesToItsLength.rrcl (r : RegNum) (n : BitVec 6) : EncodesToItsLength.Statement (.rrcl r n) :=
  fun _ _ => rfl
theorem EncodesToItsLength.bl (disp : BitVec 6) : EncodesToItsLength.Statement (.bl disp) := fun _ _ => rfl
theorem EncodesToItsLength.be (disp : BitVec 6) : EncodesToItsLength.Statement (.be disp) := fun _ _ => rfl
theorem EncodesToItsLength.ble (disp : BitVec 6) : EncodesToItsLength.Statement (.ble disp) := fun _ _ => rfl
theorem EncodesToItsLength.bh (disp : BitVec 6) : EncodesToItsLength.Statement (.bh disp) := fun _ _ => rfl
theorem EncodesToItsLength.bne (disp : BitVec 6) : EncodesToItsLength.Statement (.bne disp) := fun _ _ => rfl
theorem EncodesToItsLength.bhe (disp : BitVec 6) : EncodesToItsLength.Statement (.bhe disp) := fun _ _ => rfl
theorem EncodesToItsLength.bnv (disp : BitVec 6) : EncodesToItsLength.Statement (.bnv disp) := fun _ _ => rfl
theorem EncodesToItsLength.bv (disp : BitVec 6) : EncodesToItsLength.Statement (.bv disp) := fun _ _ => rfl
theorem EncodesToItsLength.bc (disp : BitVec 6) : EncodesToItsLength.Statement (.bc disp) := fun _ _ => rfl
theorem EncodesToItsLength.bnc (disp : BitVec 6) : EncodesToItsLength.Statement (.bnc disp) := fun _ _ => rfl
theorem EncodesToItsLength.bra (disp : BitVec 6) : EncodesToItsLength.Statement (.bra disp) := fun _ _ => rfl
theorem EncodesToItsLength.rl : EncodesToItsLength.Statement .rl := fun _ _ => rfl
theorem EncodesToItsLength.re : EncodesToItsLength.Statement .re := fun _ _ => rfl
theorem EncodesToItsLength.rle : EncodesToItsLength.Statement .rle := fun _ _ => rfl
theorem EncodesToItsLength.rh : EncodesToItsLength.Statement .rh := fun _ _ => rfl
theorem EncodesToItsLength.rne : EncodesToItsLength.Statement .rne := fun _ _ => rfl
theorem EncodesToItsLength.rhe : EncodesToItsLength.Statement .rhe := fun _ _ => rfl
theorem EncodesToItsLength.rnv : EncodesToItsLength.Statement .rnv := fun _ _ => rfl
theorem EncodesToItsLength.rv : EncodesToItsLength.Statement .rv := fun _ _ => rfl
theorem EncodesToItsLength.rc : EncodesToItsLength.Statement .rc := fun _ _ => rfl
theorem EncodesToItsLength.rnc : EncodesToItsLength.Statement .rnc := fun _ _ => rfl
theorem EncodesToItsLength.rss : EncodesToItsLength.Statement .rss := fun _ _ => rfl
theorem EncodesToItsLength.clr (r : RegNum) : EncodesToItsLength.Statement (.clr r) := fun _ _ => rfl
theorem EncodesToItsLength.clrl (r : RegNum) : EncodesToItsLength.Statement (.clrl r) := fun _ _ => rfl
theorem EncodesToItsLength.abs (r : RegNum) : EncodesToItsLength.Statement (.abs r) := fun _ _ => rfl
theorem EncodesToItsLength.absl (r : RegNum) : EncodesToItsLength.Statement (.absl r) := fun _ _ => rfl
theorem EncodesToItsLength.inv (r : RegNum) : EncodesToItsLength.Statement (.inv r) := fun _ _ => rfl
theorem EncodesToItsLength.invl (r : RegNum) : EncodesToItsLength.Statement (.invl r) := fun _ _ => rfl
theorem EncodesToItsLength.neg (r : RegNum) : EncodesToItsLength.Statement (.neg r) := fun _ _ => rfl
theorem EncodesToItsLength.negl (r : RegNum) : EncodesToItsLength.Statement (.negl r) := fun _ _ => rfl
theorem EncodesToItsLength.nb (rD rS : RegNum) : EncodesToItsLength.Statement (.nb rD rS) := fun _ _ => rfl
theorem EncodesToItsLength.nh (rD rS : RegNum) : EncodesToItsLength.Statement (.nh rD rS) := fun _ _ => rfl
theorem EncodesToItsLength.n (rD rS : RegNum) : EncodesToItsLength.Statement (.n rD rS) := fun _ _ => rfl
theorem EncodesToItsLength.nl (rD rS : RegNum) : EncodesToItsLength.Statement (.nl rD rS) := fun _ _ => rfl
theorem EncodesToItsLength.sinm (r : RegNum) : EncodesToItsLength.Statement (.sinm r) := fun _ _ => rfl
theorem EncodesToItsLength.sin (r : RegNum) : EncodesToItsLength.Statement (.sin r) := fun _ _ => rfl
theorem EncodesToItsLength.sind (r : RegNum) : EncodesToItsLength.Statement (.sind r) := fun _ _ => rfl
theorem EncodesToItsLength.sinq (r : RegNum) : EncodesToItsLength.Statement (.sinq r) := fun _ _ => rfl
theorem EncodesToItsLength.cosm (r : RegNum) : EncodesToItsLength.Statement (.cosm r) := fun _ _ => rfl
theorem EncodesToItsLength.cos (r : RegNum) : EncodesToItsLength.Statement (.cos r) := fun _ _ => rfl
theorem EncodesToItsLength.cosd (r : RegNum) : EncodesToItsLength.Statement (.cosd r) := fun _ _ => rfl
theorem EncodesToItsLength.cosq (r : RegNum) : EncodesToItsLength.Statement (.cosq r) := fun _ _ => rfl
theorem EncodesToItsLength.tanm (r : RegNum) : EncodesToItsLength.Statement (.tanm r) := fun _ _ => rfl
theorem EncodesToItsLength.tan (r : RegNum) : EncodesToItsLength.Statement (.tan r) := fun _ _ => rfl
theorem EncodesToItsLength.tand (r : RegNum) : EncodesToItsLength.Statement (.tand r) := fun _ _ => rfl
theorem EncodesToItsLength.tanq (r : RegNum) : EncodesToItsLength.Statement (.tanq r) := fun _ _ => rfl
theorem EncodesToItsLength.asnm (r : RegNum) : EncodesToItsLength.Statement (.asnm r) := fun _ _ => rfl
theorem EncodesToItsLength.asn (r : RegNum) : EncodesToItsLength.Statement (.asn r) := fun _ _ => rfl
theorem EncodesToItsLength.asnd (r : RegNum) : EncodesToItsLength.Statement (.asnd r) := fun _ _ => rfl
theorem EncodesToItsLength.asnq (r : RegNum) : EncodesToItsLength.Statement (.asnq r) := fun _ _ => rfl
theorem EncodesToItsLength.acsm (r : RegNum) : EncodesToItsLength.Statement (.acsm r) := fun _ _ => rfl
theorem EncodesToItsLength.acs (r : RegNum) : EncodesToItsLength.Statement (.acs r) := fun _ _ => rfl
theorem EncodesToItsLength.acsd (r : RegNum) : EncodesToItsLength.Statement (.acsd r) := fun _ _ => rfl
theorem EncodesToItsLength.acsq (r : RegNum) : EncodesToItsLength.Statement (.acsq r) := fun _ _ => rfl
theorem EncodesToItsLength.atnm (r : RegNum) : EncodesToItsLength.Statement (.atnm r) := fun _ _ => rfl
theorem EncodesToItsLength.atn (r : RegNum) : EncodesToItsLength.Statement (.atn r) := fun _ _ => rfl
theorem EncodesToItsLength.atnd (r : RegNum) : EncodesToItsLength.Statement (.atnd r) := fun _ _ => rfl
theorem EncodesToItsLength.atnq (r : RegNum) : EncodesToItsLength.Statement (.atnq r) := fun _ _ => rfl
theorem EncodesToItsLength.sinhm (r : RegNum) : EncodesToItsLength.Statement (.sinhm r) := fun _ _ => rfl
theorem EncodesToItsLength.sinh (r : RegNum) : EncodesToItsLength.Statement (.sinh r) := fun _ _ => rfl
theorem EncodesToItsLength.sinhd (r : RegNum) : EncodesToItsLength.Statement (.sinhd r) := fun _ _ => rfl
theorem EncodesToItsLength.sinhq (r : RegNum) : EncodesToItsLength.Statement (.sinhq r) := fun _ _ => rfl
theorem EncodesToItsLength.coshm (r : RegNum) : EncodesToItsLength.Statement (.coshm r) := fun _ _ => rfl
theorem EncodesToItsLength.cosh (r : RegNum) : EncodesToItsLength.Statement (.cosh r) := fun _ _ => rfl
theorem EncodesToItsLength.coshd (r : RegNum) : EncodesToItsLength.Statement (.coshd r) := fun _ _ => rfl
theorem EncodesToItsLength.coshq (r : RegNum) : EncodesToItsLength.Statement (.coshq r) := fun _ _ => rfl
theorem EncodesToItsLength.tanhm (r : RegNum) : EncodesToItsLength.Statement (.tanhm r) := fun _ _ => rfl
theorem EncodesToItsLength.tanh (r : RegNum) : EncodesToItsLength.Statement (.tanh r) := fun _ _ => rfl
theorem EncodesToItsLength.tanhd (r : RegNum) : EncodesToItsLength.Statement (.tanhd r) := fun _ _ => rfl
theorem EncodesToItsLength.tanhq (r : RegNum) : EncodesToItsLength.Statement (.tanhq r) := fun _ _ => rfl
theorem EncodesToItsLength.asnhm (r : RegNum) : EncodesToItsLength.Statement (.asnhm r) := fun _ _ => rfl
theorem EncodesToItsLength.asnh (r : RegNum) : EncodesToItsLength.Statement (.asnh r) := fun _ _ => rfl
theorem EncodesToItsLength.asnhd (r : RegNum) : EncodesToItsLength.Statement (.asnhd r) := fun _ _ => rfl
theorem EncodesToItsLength.asnhq (r : RegNum) : EncodesToItsLength.Statement (.asnhq r) := fun _ _ => rfl
theorem EncodesToItsLength.acshm (r : RegNum) : EncodesToItsLength.Statement (.acshm r) := fun _ _ => rfl
theorem EncodesToItsLength.acsh (r : RegNum) : EncodesToItsLength.Statement (.acsh r) := fun _ _ => rfl
theorem EncodesToItsLength.acshd (r : RegNum) : EncodesToItsLength.Statement (.acshd r) := fun _ _ => rfl
theorem EncodesToItsLength.acshq (r : RegNum) : EncodesToItsLength.Statement (.acshq r) := fun _ _ => rfl
theorem EncodesToItsLength.atnhm (r : RegNum) : EncodesToItsLength.Statement (.atnhm r) := fun _ _ => rfl
theorem EncodesToItsLength.atnh (r : RegNum) : EncodesToItsLength.Statement (.atnh r) := fun _ _ => rfl
theorem EncodesToItsLength.atnhd (r : RegNum) : EncodesToItsLength.Statement (.atnhd r) := fun _ _ => rfl
theorem EncodesToItsLength.atnhq (r : RegNum) : EncodesToItsLength.Statement (.atnhq r) := fun _ _ => rfl
theorem EncodesToItsLength.sqrm (r : RegNum) : EncodesToItsLength.Statement (.sqrm r) := fun _ _ => rfl
theorem EncodesToItsLength.sqr (r : RegNum) : EncodesToItsLength.Statement (.sqr r) := fun _ _ => rfl
theorem EncodesToItsLength.sqrd (r : RegNum) : EncodesToItsLength.Statement (.sqrd r) := fun _ _ => rfl
theorem EncodesToItsLength.sqrq (r : RegNum) : EncodesToItsLength.Statement (.sqrq r) := fun _ _ => rfl
theorem EncodesToItsLength.qbrm (r : RegNum) : EncodesToItsLength.Statement (.qbrm r) := fun _ _ => rfl
theorem EncodesToItsLength.qbr (r : RegNum) : EncodesToItsLength.Statement (.qbr r) := fun _ _ => rfl
theorem EncodesToItsLength.qbrd (r : RegNum) : EncodesToItsLength.Statement (.qbrd r) := fun _ _ => rfl
theorem EncodesToItsLength.qbrq (r : RegNum) : EncodesToItsLength.Statement (.qbrq r) := fun _ _ => rfl
theorem EncodesToItsLength.logm (r : RegNum) : EncodesToItsLength.Statement (.logm r) := fun _ _ => rfl
theorem EncodesToItsLength.log (r : RegNum) : EncodesToItsLength.Statement (.log r) := fun _ _ => rfl
theorem EncodesToItsLength.logd (r : RegNum) : EncodesToItsLength.Statement (.logd r) := fun _ _ => rfl
theorem EncodesToItsLength.logq (r : RegNum) : EncodesToItsLength.Statement (.logq r) := fun _ _ => rfl
theorem EncodesToItsLength.expm (r : RegNum) : EncodesToItsLength.Statement (.expm r) := fun _ _ => rfl
theorem EncodesToItsLength.exp (r : RegNum) : EncodesToItsLength.Statement (.exp r) := fun _ _ => rfl
theorem EncodesToItsLength.expd (r : RegNum) : EncodesToItsLength.Statement (.expd r) := fun _ _ => rfl
theorem EncodesToItsLength.expq (r : RegNum) : EncodesToItsLength.Statement (.expq r) := fun _ _ => rfl
theorem EncodesToItsLength.clrq (r : RegNum) : EncodesToItsLength.Statement (.clrq r) := fun _ _ => rfl
theorem EncodesToItsLength.absq (r : RegNum) : EncodesToItsLength.Statement (.absq r) := fun _ _ => rfl
theorem EncodesToItsLength.sgnq (r : RegNum) : EncodesToItsLength.Statement (.sgnq r) := fun _ _ => rfl
theorem EncodesToItsLength.negq (r : RegNum) : EncodesToItsLength.Statement (.negq r) := fun _ _ => rfl

end Sys2Proof.Laws
end

