-- ==== Sys2Proof/Tests/Slice0.lean ====
section
/-! SUPPORT. Tests of this model, their expected results taken from the spec's vectors and tables, and a witness
for every statement that has hypotheses: concrete states and operands that meet them, at the ends of their
ranges. -/

namespace Sys2Proof.Machine

/-! ### Well-formedness: one ill-formed term for each check -/

theorem test_wellFormed_refuses_base_zero : (Instr.jmp 0 0 0x10#16).wellFormed .normal = false := by decide

theorem test_wellFormed_refuses_odd_address : (Instr.jmp 0 3 0x11#16).wellFormed .normal = false := by decide

theorem test_wellFormed_refuses_word_base_zero : (Instr.lmu 1 2 0 0x10#16).wellFormed .normal = false := by decide

theorem test_wellFormed_refuses_word_odd_address : (Instr.slsb 4 1 0x9#16).wellFormed .normal = false := by decide

theorem test_wellFormed_refuses_word_bit_one : (Instr.slsb 4 1 0xA#16).wellFormed .normal = false := by decide

theorem test_wellFormed_refuses_branch_zero : (Instr.bra 0x0#6).wellFormed .normal = false := by decide

theorem test_wellFormed_refuses_stack_form_in_simple : (Instr.lmuPop 1 2).wellFormed .simple = false := by decide

theorem test_wellFormed_refuses_shift_in_local : (Instr.shl 1 2#5).wellFormed .localMode = false := by decide

theorem test_wellFormed_refuses_compact : (Instr.jmp 0 3 0x10#16).wellFormed .compact = false := by decide

theorem test_wellFormed_accepts : (Instr.jmp 0 3 0x10#16).wellFormed .normal = true := by decide

/-! ### Decoding -/

/-- D2 to D58 of spec/95_test_vectors.md, section 2. -/
theorem test_decode_loads_and_stores :
    ∀ d ∈ ([
      (32, 0xE4A30011, (.lmu 2 4 3 0x10#16)), (32, 0xE6A30011, (.stmu 2 4 3 0x10#16)),
      (32, 0xE8A30011, (.lmubr 2 4 3 0x10#16)), (32, 0xEAA30011, (.stmubr 2 4 3 0x10#16)),
      (32, 0xECA30011, (.lmuq 2 4 3 0x10#16)), (32, 0xEEA30011, (.stmuq 2 4 3 0x10#16)),
      (32, 0xF4230011, (.slbr 4 3 0x10#16)), (32, 0xF4630011, (.sstbr 4 3 0x10#16)),
      (32, 0xF4A30011, (.slsb 4 3 0x10#16)), (32, 0xF4E30011, (.sssb 4 3 0x10#16)),
      (32, 0xF5230011, (.slpsb 4 3 0x10#16)), (32, 0xF5630011, (.sspsb 4 3 0x10#16)),
      (32, 0xF5A30011, (.slasb 4 3 0x10#16)), (32, 0xF5E30011, (.ssasb 4 3 0x10#16)),
      (16, 0xE458, (.lmuPop 1 3)), (16, 0xE658, (.stmuPush 1 3)), (16, 0xE858, (.lmubrPop 1 3)),
      (16, 0xEA58, (.stmubrPush 1 3)), (16, 0xEC58, (.lmuqPop 1 3)), (16, 0xEE58,
        (.stmuqPush 1 3))] : List (Nat × Nat × Instr)),
      decodeTableWord d.1 d.2.1 = some d.2.2 := by
  decide

/-- D1 to D38 of spec/95_test_vectors.md, section 2. -/
theorem test_decode_jumps_1 :
    ∀ d ∈ ([
      (32, 0xE0A30010, (.jms 2 4 3 0x10#16)), (32, 0xF0400005, (.lbl 0x5#16)), (32, 0xF0800005, (.lbe 0x5#16)),
      (32, 0xF0C00005, (.lble 0x5#16)), (32, 0xF1000005, (.lbh 0x5#16)), (32, 0xF1400005, (.lbne 0x5#16)),
      (32, 0xF1800005, (.lbhe 0x5#16)), (32, 0xF1C00005, (.lbnv 0x5#16)), (32, 0xF2000005, (.lbv 0x5#16)),
      (32, 0xF2800005, (.lbc 0x5#16)), (32, 0xF2C00005, (.lbnc 0x5#16)), (32, 0xF3C00005, (.lbra 0x5#16)),
      (32, 0xF4500005, (.lbxh 1 2 0x5#16)), (32, 0xF6500005, (.lbxle 1 2 0x5#16)),
      (32, 0xF8500005, (.lbrs 1 0x5#16)), (32, 0xF0630010, (.jl 4 3 0x10#16)),
      (32, 0xF0A30010, (.je 4 3 0x10#16)), (32, 0xF0E30010, (.jle 4 3 0x10#16)),
      (32, 0xF1230010, (.jh 4 3 0x10#16)), (32, 0xF1630010, (.jne 4 3 0x10#16)),
      (32, 0xF1A30010, (.jhe 4 3 0x10#16)), (32, 0xF1E30010, (.jnv 4 3 0x10#16)),
      (32, 0xF2230010, (.jv 4 3 0x10#16)), (32, 0xF2A30010, (.jc 4 3 0x10#16)),
      (32, 0xF2E30010, (.jnc 4 3 0x10#16)), (32, 0xF3E30010, (.jmp 4 3 0x10#16)),
      (32, 0xF0630011, (.jvl 4 3 0x10#16)), (32, 0xF0A30011, (.jve 4 3 0x10#16)),
      (32, 0xF0E30011, (.jvle 4 3 0x10#16)), (32, 0xF1230011, (.jvh 4 3 0x10#16)),
      (32, 0xF1630011, (.jvne 4 3 0x10#16)), (32, 0xF1A30011, (.jvhe 4 3 0x10#16))] : List (Nat × Nat × Instr)),
      decodeTableWord d.1 d.2.1 = some d.2.2 := by
  decide

/-- D39 to D44 of spec/95_test_vectors.md, section 2. -/
theorem test_decode_jumps_2 :
    ∀ d ∈ ([
      (32, 0xF1E30011, (.jvnv 4 3 0x10#16)), (32, 0xF2230011, (.jvv 4 3 0x10#16)),
      (32, 0xF2A30011, (.jvc 4 3 0x10#16)), (32, 0xF2E30011, (.jvnc 4 3 0x10#16)),
      (32, 0xF4A30010, (.jxh 2 4 3 0x10#16)), (32, 0xF6A30010,
        (.jxle 2 4 3 0x10#16))] : List (Nat × Nat × Instr)),
      decodeTableWord d.1 d.2.1 = some d.2.2 := by
  decide

/-- D59 to D60 of spec/95_test_vectors.md, section 2. -/
theorem test_decode_extensible_shifts :
    ∀ d ∈ ([
      (32, 0xE0A80610, (.esl 2 5 0x3#4 0x8#6)), (32, 0xE2A80610,
        (.esr 2 5 0x3#4 0x8#6))] : List (Nat × Nat × Instr)),
      decodeTableWord d.1 d.2.1 = some d.2.2 := by
  decide

/-- D61 to D88 of spec/95_test_vectors.md, section 2. -/
theorem test_decode_shifts :
    ∀ d ∈ ([
      (16, 0x30B3, (.shlb 2 0x3#3)), (16, 0x32B3, (.shrb 2 0x3#3)), (16, 0x36B3, (.asrb 2 0x3#3)),
      (16, 0x38B3, (.rolb 2 0x3#3)), (16, 0x3AB3, (.rorb 2 0x3#3)), (16, 0x3CB3, (.rlcb 2 0x3#3)),
      (16, 0x3EB3, (.rrcb 2 0x3#3)), (16, 0x30A3, (.shlh 2 0x3#4)), (16, 0x32A3, (.shrh 2 0x3#4)),
      (16, 0x36A3, (.asrh 2 0x3#4)), (16, 0x38A3, (.rolh 2 0x3#4)), (16, 0x3AA3, (.rorh 2 0x3#4)),
      (16, 0x3CA3, (.rlch 2 0x3#4)), (16, 0x3EA3, (.rrch 2 0x3#4)), (16, 0x3083, (.shl 2 0x3#5)),
      (16, 0x3283, (.shr 2 0x3#5)), (16, 0x3683, (.asr 2 0x3#5)), (16, 0x3883, (.rol 2 0x3#5)),
      (16, 0x3A83, (.ror 2 0x3#5)), (16, 0x3C83, (.rlc 2 0x3#5)), (16, 0x3E83, (.rrc 2 0x3#5)),
      (16, 0x20A4, (.shll 2 0x24#6)), (16, 0x22A4, (.shrl 2 0x24#6)), (16, 0x26A4, (.asrl 2 0x24#6)),
      (16, 0x28A4, (.roll 2 0x24#6)), (16, 0x2AA4, (.rorl 2 0x24#6)), (16, 0x2CA4, (.rlcl 2 0x24#6)),
      (16, 0x2EA4, (.rrcl 2 0x24#6))] : List (Nat × Nat × Instr)),
      decodeTableWord d.1 d.2.1 = some d.2.2 := by
  decide

/-- D101 to D122 of spec/95_test_vectors.md, section 2. -/
theorem test_decode_branches_and_returns :
    ∀ d ∈ ([
      (16, 0x8228, (.bl 0x5#6)), (16, 0x8428, (.be 0x5#6)), (16, 0x8628, (.ble 0x5#6)),
      (16, 0x8828, (.bh 0x5#6)), (16, 0x8A28, (.bne 0x5#6)), (16, 0x8C28, (.bhe 0x5#6)),
      (16, 0x8E28, (.bnv 0x5#6)), (16, 0x9028, (.bv 0x5#6)), (16, 0x9428, (.bc 0x5#6)),
      (16, 0x9628, (.bnc 0x5#6)), (16, 0x9E28, (.bra 0x5#6)), (16, 0x8200, .rl), (16, 0x8400, .re),
      (16, 0x8600, .rle), (16, 0x8800, .rh), (16, 0x8A00, .rne), (16, 0x8C00, .rhe), (16, 0x8E00, .rnv),
      (16, 0x9000, .rv), (16, 0x9400, .rc), (16, 0x9600, .rnc), (16, 0x9E00, .rss)] : List (Nat × Nat × Instr)),
      decodeTableWord d.1 d.2.1 = some d.2.2 := by
  decide

/-- D89 to D100 of spec/95_test_vectors.md, section 2. -/
theorem test_decode_single_operand :
    ∀ d ∈ ([
      (16, 0x2484, (.clr 4)), (16, 0x24C4, (.clrl 4)), (16, 0x248C, (.abs 4)), (16, 0x24CC, (.absl 4)),
      (16, 0x2494, (.inv 4)), (16, 0x24D4, (.invl 4)), (16, 0x249C, (.neg 4)), (16, 0x24DC, (.negl 4)),
      (16, 0x251C, (.nb 3 4)), (16, 0x255C, (.nh 3 4)), (16, 0x259C, (.n 3 4)), (16, 0x25DC,
        (.nl 3 4))] : List (Nat × Nat × Instr)),
      decodeTableWord d.1 d.2.1 = some d.2.2 := by
  decide

/-- D123 to D154 of spec/95_test_vectors.md, section 2. -/
theorem test_decode_functions_1 :
    ∀ d ∈ ([
      (16, 0xA018, (.sinm 3)), (16, 0xA818, (.sin 3)), (16, 0xB018, (.sind 3)), (16, 0xB818, (.sinq 3)),
      (16, 0xA058, (.cosm 3)), (16, 0xA858, (.cos 3)), (16, 0xB058, (.cosd 3)), (16, 0xB858, (.cosq 3)),
      (16, 0xA098, (.tanm 3)), (16, 0xA898, (.tan 3)), (16, 0xB098, (.tand 3)), (16, 0xB898, (.tanq 3)),
      (16, 0xA118, (.asnm 3)), (16, 0xA918, (.asn 3)), (16, 0xB118, (.asnd 3)), (16, 0xB918, (.asnq 3)),
      (16, 0xA158, (.acsm 3)), (16, 0xA958, (.acs 3)), (16, 0xB158, (.acsd 3)), (16, 0xB958, (.acsq 3)),
      (16, 0xA198, (.atnm 3)), (16, 0xA998, (.atn 3)), (16, 0xB198, (.atnd 3)), (16, 0xB998, (.atnq 3)),
      (16, 0xA218, (.sinhm 3)), (16, 0xAA18, (.sinh 3)), (16, 0xB218, (.sinhd 3)), (16, 0xBA18, (.sinhq 3)),
      (16, 0xA258, (.coshm 3)), (16, 0xAA58, (.cosh 3)), (16, 0xB258, (.coshd 3)), (16, 0xBA58,
        (.coshq 3))] : List (Nat × Nat × Instr)),
      decodeTableWord d.1 d.2.1 = some d.2.2 := by
  decide

/-- D155 to D186 of spec/95_test_vectors.md, section 2. -/
theorem test_decode_functions_2 :
    ∀ d ∈ ([
      (16, 0xA298, (.tanhm 3)), (16, 0xAA98, (.tanh 3)), (16, 0xB298, (.tanhd 3)), (16, 0xBA98, (.tanhq 3)),
      (16, 0xA318, (.asnhm 3)), (16, 0xAB18, (.asnh 3)), (16, 0xB318, (.asnhd 3)), (16, 0xBB18, (.asnhq 3)),
      (16, 0xA358, (.acshm 3)), (16, 0xAB58, (.acsh 3)), (16, 0xB358, (.acshd 3)), (16, 0xBB58, (.acshq 3)),
      (16, 0xA398, (.atnhm 3)), (16, 0xAB98, (.atnh 3)), (16, 0xB398, (.atnhd 3)), (16, 0xBB98, (.atnhq 3)),
      (16, 0xA418, (.sqrm 3)), (16, 0xAC18, (.sqr 3)), (16, 0xB418, (.sqrd 3)), (16, 0xBC18, (.sqrq 3)),
      (16, 0xA458, (.qbrm 3)), (16, 0xAC58, (.qbr 3)), (16, 0xB458, (.qbrd 3)), (16, 0xBC58, (.qbrq 3)),
      (16, 0xA498, (.logm 3)), (16, 0xAC98, (.log 3)), (16, 0xB498, (.logd 3)), (16, 0xBC98, (.logq 3)),
      (16, 0xA4D8, (.expm 3)), (16, 0xACD8, (.exp 3)), (16, 0xB4D8, (.expd 3)), (16, 0xBCD8,
        (.expq 3))] : List (Nat × Nat × Instr)),
      decodeTableWord d.1 d.2.1 = some d.2.2 := by
  decide

/-- D187 to D190 of spec/95_test_vectors.md, section 2. -/
theorem test_decode_functions_3 :
    ∀ d ∈ ([
      (16, 0xBD18, (.clrq 3)), (16, 0xBD58, (.absq 3)), (16, 0xBD98, (.sgnq 3)), (16, 0xBDD8,
        (.negq 3))] : List (Nat × Nat × Instr)),
      decodeTableWord d.1 d.2.1 = some d.2.2 := by
  decide

/-- Words of Simple and Local Mode (30_encoding.md R111, R112): the prefixes change, and the bit `e` of the
multiple-register instructions is 0. -/
theorem test_decode_other_modes :
    decode defaultEsLayout .simple 0x04A3#16 0x0010#16 = .instr (.lmu 2 4 3 0x10#16) ∧
      decode defaultEsLayout .simple 0x1083#16 0x0041#16 = .instr (.jve 0 3 0x40#16) ∧
      decode defaultEsLayout .simple 0x3083#16 0#16 = .instr (.shl 2 3#5) ∧
      decode defaultEsLayout .localMode 0x44A3#16 0x0010#16 = .instr (.lmu 2 4 3 0x10#16) ∧
      decode defaultEsLayout .localMode 0x5450#16 0x0005#16 = .instr (.lbxh 1 2 0x5#16) := by
  decide

/-- Words that are no instruction: M20, J21, J22, J23, X11, L10, L19, B14, B15, B16, E28, H46, H47, O22, O23,
F5 to F8 of the spec's vectors. -/
theorem test_decode_unlisted :
    ([(0xE4A3#16, 0x0010#16), (0xF3C3#16, 0x0041#16), (0xF003#16, 0x0040#16), (0xE083#16, 0x0101#16),
      (0xF653#16, 0x0041#16), (0xF000#16, 0x0005#16), (0xF803#16, 0x0010#16), (0xE2AB#16, 0x0610#16),
      (0x8008#16, 0#16), (0x9208#16, 0#16), (0x9E0B#16, 0#16), (0x3483#16, 0#16), (0x2403#16, 0#16),
      (0x241C#16, 0#16), (0x24A4#16, 0#16), (0xA8D8#16, 0#16), (0xA518#16, 0#16), (0xBE18#16, 0#16),
      (0xA819#16, 0#16)] : List (Half × Half)).all
        (fun d => decide (decode defaultEsLayout .normal d.1 d.2 = .unlisted)) = true := by
  decide

/-- Words with a reserved field: M11, S11, E22, E23, E24, H45 of the spec's vectors. -/
theorem test_decode_reserved :
    ([(0xE4A3#16, 0x0013#16), (0xF4A1#16, 0x000B#16), (0xE0A8#16, 0x8610#16), (0xE0A8#16, 0x0611#16),
      (0xE0A8#16, 0x0690#16), (0x30B8#16, 0#16)] : List (Half × Half)).all
        (fun d => decide (decode defaultEsLayout .normal d.1 d.2 = .reserved)) = true := by
  decide

/-- Another layout of format ES32: the register digits exchanged, the count above the connective. -/
def otherLayout : EsLayout := { rDAt := 3, rSAt := 6, connAt := 2, nAt := 7, mustBeZero := 0xE043#16 }

/-- `ESL 2,5,0b0011,8` under that layout; a bit that must be zero there is no field of it (R221). -/
theorem test_decode_other_layout :
    otherLayout.valid = true ∧
      decode otherLayout .normal 0xE150#16 0x040C#16 = .instr (.esl 2 5 0b0011#4 8#6) ∧
      encode otherLayout .normal (.esl 2 5 0b0011#4 8#6) = [0xE150#16, 0x040C#16] ∧
      decode otherLayout .normal 0xE150#16 0x044C#16 = .reserved ∧
      (defaultEsLayout.valid = true ∧ { otherLayout with nAt := 4 }.valid = false) := by
  decide

/-- A short instruction leaves the bytes after it, and a long one cut short is none. -/
theorem test_decodeBytes :
    decodeBytes defaultEsLayout .normal [0x24#8, 0x84#8, 0xF3#8] = some (.instr (.clr 4), [0xF3#8]) ∧
      decodeBytes defaultEsLayout .normal [0xF3#8, 0xC3#8, 0x00#8] = none := by
  decide

/-- The Compact column is a transcription only: its patterns for LBXLE and LBRS overlap (90_conflicts.md C7). -/
theorem test_compact_patterns_overlap :
    ((compactRows.filter fun row => row.covers 0x71C0#16).map fun row => row.mnemonic) =
      ["JV", "JVV", "LBXLE", "LBRS"] := by
  decide

/-! ### One step, on the spec's vectors -/

/-- The start state of the vectors (spec/95_test_vectors.md), with the deterministic choices of the two policies. -/
def start : State :=
  { State.reset with
    pc := 0x2000
    params := { resetParams with flagsUnstated := .preserve, narrowUpper := .unchanged, text := [⟨0x2000, 4⟩] } }

/-- The same under 64-bit addressing. -/
def wide : State := { start with params := { start.params with addrWidth := .bits64 } }

def State.withBytes (s : State) (a : Nat) (bytes : List Byte) : State := s.setMem (s.mem.writeBytes a bytes)

def State.withSw (s : State) (c v : Bool) (r : Sign) : State := { s with sw := ⟨c, v, r⟩ }

def State.withSsw (s : State) (c v : Bool) (r : Sign) : State := { s with ssw := ⟨c, v, r⟩ }

/-- The `n` bytes from `a` on, or none. -/
def State.bytesAt (s : State) (a n : Nat) : List Byte :=
  match s.mem.readBytes a n with
  | .ok vs => vs
  | .error _ => []

/-- One step on a word of the opcode table answers a next state of which `p` holds. -/
def after (s : State) (nbits w : Nat) (p : State → Bool) : Bool :=
  match step (s.withFetchWord nbits w) with
  | .next t => p t
  | .fault _ => false
  | .refused _ => false

/-- What one step on a word of the opcode table stops with. -/
def stopOf (s : State) (nbits w : Nat) : Option (Fault ⊕ Refusal) :=
  match step (s.withFetchWord nbits w) with
  | .next _ => none
  | .fault e => some (.inl e)
  | .refused e => some (.inr e)

/-- M2: STMU 2,4,0x10(3). -/
theorem test_stmu_m2 :
    after ((((start.setX 2 0x11223344).setX 3 0x55667788).setX 4 0x99AABBCC).setB 3 0x9000) 32 0xE6A30011 fun t =>
      t.pc = 0x2004 ∧
        t.bytesAt 0x9010 12 = [0x11, 0x22, 0x33, 0x44, 0x55, 0x66, 0x77, 0x88, 0x99, 0xAA, 0xBB, 0xCC] := by
  decide

/-- M4: LMUBR 2,4,0(3). -/
theorem test_lmubr_m4 :
    after ((start.setB 3 0x9000).withBytes 0x9000 [0x00, 0x00, 0x10, 0x00, 0x00, 0x00, 0x20, 0x00, 0x00,
      0x00, 0x30, 0x00]) 32 0xE8A30001 fun t =>
      t.b.read 2 = 0x1000 ∧ t.b.read 3 = 0x2000 ∧ t.b.read 4 = 0x3000 ∧ t.pc = 0x2004 := by
  decide

/-- M4b: STMUBR 2,4,0(3). -/
theorem test_stmubr_m4b :
    after (((start.setB 2 0x1000).setB 3 0x9000).setB 4 0x3000) 32 0xEAA30001 fun t =>
      t.pc = 0x2004 ∧
        t.bytesAt 0x9000 12 = [0x00, 0x00, 0x10, 0x00, 0x00, 0x00, 0x90, 0x00, 0x00, 0x00, 0x30, 0x00] := by
  decide

/-- M5: STMUBR 0,1 (PUSH). -/
theorem test_stmubr_stack_m5 :
    after ((start.setB 0 0x8000).setB 1 0x1234) 16 0xEA08 fun t =>
      t.b.read 0 = 0x8008 ∧ t.pc = 0x2002 ∧
        t.bytesAt 0x8000 8 = [0x00, 0x00, 0x80, 0x00, 0x00, 0x00, 0x12, 0x34] := by
  decide

/-- M6: LMU 1,3 (POP). -/
theorem test_lmu_stack_m6 :
    after ((start.setB 0 0x8010).withBytes 0x8004 [0x00, 0x00, 0x00, 0x0A, 0x00, 0x00, 0x00, 0x0B, 0x00,
      0x00, 0x00, 0x0C]) 16 0xE458 fun t =>
      t.x.read 1 = 0xA ∧ t.x.read 2 = 0xB ∧ t.x.read 3 = 0xC ∧ t.b.read 0 = 0x8004 ∧ t.pc = 0x2002 := by
  decide

/-- M7: STMU 1,3 (PUSH). -/
theorem test_stmu_stack_m7 :
    after ((((start.setX 1 0xA).setX 2 0xB).setX 3 0xC).setB 0 0x8004) 16 0xE658 fun t =>
      t.b.read 0 = 0x8010 ∧ t.pc = 0x2002 ∧
        t.bytesAt 0x8004 12 = [0x00, 0x00, 0x00, 0x0A, 0x00, 0x00, 0x00, 0x0B, 0x00, 0x00, 0x00, 0x0C] := by
  decide

/-- M7b: LMUBR 1,2 (POP). -/
theorem test_lmubr_stack_m7b :
    after ((start.setB 0 0x8008).withBytes 0x8000 [0x00, 0x00, 0x10, 0x00, 0x00, 0x00, 0x20,
      0x00]) 16 0xE850 fun t =>
      t.b.read 0 = 0x8000 ∧ t.b.read 1 = 0x1000 ∧ t.b.read 2 = 0x2000 ∧ t.pc = 0x2002 := by
  decide

/-- M8: STMUQ 2,3 (PUSH). -/
theorem test_stmuq_stack_m8 :
    after (((start.setB 0 0x8000).setF 2 0x102030405060708090A0B0C0D0E0F).setF 3
      0xF0F1F2F3F4F5F6F7F8F9FAFBFCFDFEFF) 16 0xEE98 fun t =>
      t.b.read 0 = 0x8020 ∧ t.pc = 0x2002 ∧
        t.bytesAt 0x8000 32 = [0x00, 0x01, 0x02, 0x03, 0x04, 0x05, 0x06, 0x07, 0x08, 0x09, 0x0A, 0x0B, 0x0C,
          0x0D, 0x0E, 0x0F, 0xF0, 0xF1, 0xF2, 0xF3, 0xF4, 0xF5, 0xF6, 0xF7, 0xF8, 0xF9, 0xFA, 0xFB, 0xFC,
            0xFD, 0xFE, 0xFF] := by
  decide

/-- M8a: LMUQ 7,7 (POP). -/
theorem test_lmuq_stack_m8a :
    after ((start.setB 0 0x8010).withBytes 0x8000 [0xA0, 0xA1, 0xA2, 0xA3, 0xA4, 0xA5, 0xA6, 0xA7, 0xA8,
      0xA9, 0xAA, 0xAB, 0xAC, 0xAD, 0xAE, 0xAF]) 16 0xEDF8 fun t =>
      t.b.read 0 = 0x8000 ∧ t.f.read 7 = 0xA0A1A2A3A4A5A6A7A8A9AAABACADAEAF ∧ t.pc = 0x2002 := by
  decide

/-- M8b: LMUQ 7,7,0x20(5). -/
theorem test_lmuq_m8b :
    after ((start.setB 5 0x9000).withBytes 0x9020 [0xA0, 0xA1, 0xA2, 0xA3, 0xA4, 0xA5, 0xA6, 0xA7, 0xA8,
      0xA9, 0xAA, 0xAB, 0xAC, 0xAD, 0xAE, 0xAF]) 32 0xEDFD0021 fun t =>
      t.f.read 7 = 0xA0A1A2A3A4A5A6A7A8A9AAABACADAEAF ∧ t.pc = 0x2004 := by
  decide

/-- M8c: STMUQ 0,0,0x20(5). -/
theorem test_stmuq_m8c :
    after ((start.setB 5 0x9000).setF 0 0x123456789ABCDEF0011223344556677) 32 0xEE050021 fun t =>
      t.pc = 0x2004 ∧
        t.bytesAt 0x9020 16 = [0x01, 0x23, 0x45, 0x67, 0x89, 0xAB, 0xCD, 0xEF, 0x00, 0x11, 0x22, 0x33, 0x44,
          0x55, 0x66, 0x77] := by
  decide

/-- M13: STMU 2,2,0(3), Refused: StoreToText. -/
theorem test_stmu_m13 :
    stopOf ((start.setX 2 0x1).setB 3 0x2000) 32 0xE6930001 = some (.inl (.storeToText 0x2000)) := by
  decide

/-- M16: LMU 1,2 (POP), Refused: AddressWrap. -/
theorem test_lmu_stack_m16 :
    stopOf ((start.setB 0 0x4).withBytes 0x0 [0x00, 0x00, 0x00,
      0x01]) 16 0xE450 = some (.inl (.addressWrap (-4))) := by
  decide

/-- M17: LMU 1,1,0x1C(3). -/
theorem test_lmu_m17 :
    after ((start.setB 3 0xFFFFFFF0).withBytes 0xC [0x00, 0x00, 0x00, 0x77]) 32 0xE44B001D fun t =>
      t.x.read 1 = 0x77 ∧ t.pc = 0x2004 := by
  decide

/-- M18: LMU 1,1,0(3), Refused: AddressWrap. -/
theorem test_lmu_m18 :
    stopOf ((start.setB 3 0xFFFFFFFE).withBytes 0xFFFFFFFE [0x00,
      0x77]) 32 0xE44B0001 = some (.inl (.addressWrap 0xFFFFFFFE)) := by
  decide

/-- M19: STMU 1,1 (PUSH), Refused: AddressWrap. -/
theorem test_stmu_stack_m19 :
    stopOf ((start.setX 1 0x7).setB 0 0xFFFFFFFC) 16 0xE648 = some (.inl (.addressWrap 0x100000000)) := by
  decide

/-- S1: SLBR 4,0x8(1). -/
theorem test_slbr_s1 :
    after ((start.setB 1 0x9000).withBytes 0x9008 [0x00, 0x00, 0x40, 0x00]) 32 0xF4210009 fun t =>
      t.b.read 4 = 0x4000 ∧ t.pc = 0x2004 := by
  decide

/-- S3: SSTBR 4,0x8(1). -/
theorem test_sstbr_s3 :
    after ((start.setB 1 0x9000).setB 4 0x4000) 32 0xF4610009 fun t =>
      t.pc = 0x2004 ∧ t.bytesAt 0x9008 4 = [0x00, 0x00, 0x40, 0x00] := by
  decide

/-- S4: SLSB 4,0x8(1). -/
theorem test_slsb_s4 :
    after ((start.setB 1 0x9000).withBytes 0x9008 [0xDE, 0xAD, 0x00, 0x00]) 32 0xF4A10009 fun t =>
      t.sb.read 4 = 0xDEAD0000 ∧ t.pc = 0x2004 := by
  decide

/-- S5: SSSB 4,0x8(1). -/
theorem test_sssb_s5 :
    after ((start.setB 1 0x9000).setSb 4 0xDEAD0000) 32 0xF4E10009 fun t =>
      t.pc = 0x2004 ∧ t.bytesAt 0x9008 4 = [0xDE, 0xAD, 0x00, 0x00] := by
  decide

/-- S6: SLPSB 4,0x8(1). -/
theorem test_slpsb_s6 :
    after ((start.setB 1 0x9000).withBytes 0x9008 [0xDE, 0xAD, 0x00, 0x00]) 32 0xF5210009 fun t =>
      t.psb.read 4 = 0xDEAD0000 ∧ t.pc = 0x2004 := by
  decide

/-- S7: SSPSB 4,0x8(1). -/
theorem test_sspsb_s7 :
    after ((start.setB 1 0x9000).setPsb 4 0x11110000) 32 0xF5610009 fun t =>
      t.pc = 0x2004 ∧ t.bytesAt 0x9008 4 = [0x11, 0x11, 0x00, 0x00] := by
  decide

/-- S8: SLASB 4,0x8(1). -/
theorem test_slasb_s8 :
    after ((start.setB 1 0x9000).withBytes 0x9008 [0xDE, 0xAD, 0x00, 0x00]) 32 0xF5A10009 fun t =>
      t.asb.read 4 = 0xDEAD0000 ∧ t.pc = 0x2004 := by
  decide

/-- S9: SSASB 4,0x8(1). -/
theorem test_ssasb_s9 :
    after ((start.setB 1 0x9000).setAsb 4 0x22220000) 32 0xF5E10009 fun t =>
      t.pc = 0x2004 ∧ t.bytesAt 0x9008 4 = [0x22, 0x22, 0x00, 0x00] := by
  decide

/-- J1: JMS 2,0x100(3). -/
theorem test_jms_j1 :
    after (start.setB 3 0x4000) 32 0xE0830100 fun t =>
      t.b.read 2 = 0x2004 ∧ t.pc = 0x4100 := by
  decide

/-- J4: JMS 0,0x100(5,3). -/
theorem test_jms_j4 :
    after ((((start.setX 5 0x8).setB 0 0x8000).setB 3 0x4000).withBytes 0x4108 [0x00, 0x00, 0x60,
      0x00]) 32 0xE02B0100 fun t =>
      t.b.read 0 = 0x8004 ∧ t.pc = 0x6000 ∧ t.bytesAt 0x8000 4 = [0x00, 0x00, 0x20, 0x04] := by
  decide

/-- J6: JMP 0x100(5,3). -/
theorem test_jmp_j6 :
    after (((start.setX 5 0xFFFFFFFC).setB 3 0x4000).withBytes 0x40FC [0x00, 0x00, 0x60,
      0x00]) 32 0xF3EB0100 fun t =>
      t.pc = 0x6000 := by
  decide

/-- J6b: JMP 0x100(5,3). -/
theorem test_jmp_j6b :
    after (((wide.setX 5 0xFFFFFFF8).setB 3 0x100004000).withBytes 0x1000040F8 [0x00, 0x00, 0x00, 0x01, 0x00,
      0x00, 0x60, 0x00]) 32 0xF3EB0100 fun t =>
      t.pc = 0x100006000 := by
  decide

/-- J12: JL 0x40(3). -/
theorem test_jl_j12 :
    after ((start.setB 3 0x1000).withSw false true .neg) 32 0xF0430040 fun t =>
      t.pc = 0x2004 := by
  decide

/-- J13: JV 0x40(3). -/
theorem test_jv_j13 :
    after ((start.setB 3 0x1000).withSw false true .neg) 32 0xF2030040 fun t =>
      t.pc = 0x1040 := by
  decide

/-- J14: JC 0x40(3). -/
theorem test_jc_j14 :
    after ((start.setB 3 0x1000).withSw true true .zero) 32 0xF2830040 fun t =>
      t.pc = 0x1040 := by
  decide

/-- J15: JNC 0x40(3). -/
theorem test_jnc_j15 :
    after ((start.setB 3 0x1000).withSw true false .zero) 32 0xF2C30040 fun t =>
      t.pc = 0x2004 := by
  decide

/-- J18: JVL 0x40(3). -/
theorem test_jvl_j18 :
    after (((start.setB 3 0x1000).withSw false false .pos).withSsw false false .neg) 32 0xF0430041 fun t =>
      t.pc = 0x1040 := by
  decide

/-- X4: JXH 1,2,0x40(3). -/
theorem test_jxh_x4 :
    after (((start.setX 1 0x80000000).setX 2 0x0).setB 3 0x1000) 32 0xF4530040 fun t =>
      t.x.read 1 = 0x7FFFFFFF ∧ t.pc = 0x1040 := by
  decide

/-- X5: JXLE 1,2,0x40(3). -/
theorem test_jxle_x5 :
    after (((start.setX 1 0x2).setX 2 0x3).setB 3 0x1000) 32 0xF6530040 fun t =>
      t.x.read 1 = 0x3 ∧ t.pc = 0x1040 := by
  decide

/-- L1: LBRA +5. -/
theorem test_lbra_l1 :
    after (start.withSw false false .neg) 32 0xF3C00005 fun t =>
      t.pc = 0x200E := by
  decide

/-- L2: LBRA -3. -/
theorem test_lbra_l2 :
    after (start.withSw false false .neg) 32 0xF3C0FFFD fun t =>
      t.pc = 0x1FFE := by
  decide

/-- L7: LBH +5. -/
theorem test_lbh_l7 :
    after (start.withSw false false .neg) 32 0xF1000005 fun t =>
      t.pc = 0x2004 := by
  decide

/-- L8: LBL +5. -/
theorem test_lbl_l8 :
    after (start.withSw false false .neg) 32 0xF0780005 fun t =>
      t.pc = 0x200E := by
  decide

/-- L11: LBXH 1,2,-4. -/
theorem test_lbxh_l11 :
    after ((start.setX 1 0x5).setX 2 0x3) 32 0xF450FFFC fun t =>
      t.x.read 1 = 0x4 ∧ t.pc = 0x1FFC := by
  decide

/-- L13: LBXLE 1,2,-4. -/
theorem test_lbxle_l13 :
    after ((start.setX 1 0x2).setX 2 0x3) 32 0xF650FFFC fun t =>
      t.x.read 1 = 0x3 ∧ t.pc = 0x1FFC := by
  decide

/-- L16: LBRS 2,+0x10. -/
theorem test_lbrs_l16 :
    after start 32 0xF8800010 fun t =>
      t.b.read 2 = 0x2004 ∧ t.pc = 0x2024 := by
  decide

/-- B1: BL +5. -/
theorem test_bl_b1 :
    after (start.withSw false false .neg) 16 0x8228 fun t =>
      t.pc = 0x200C := by
  decide

/-- B4: BRA -1. -/
theorem test_bra_b4 :
    after (start.withSw false false .neg) 16 0x9FF8 fun t =>
      t.pc = 0x2000 := by
  decide

/-- B8: BNE +1. -/
theorem test_bne_b8 :
    after (start.withSw false false .pos) 16 0x8A08 fun t =>
      t.pc = 0x2004 := by
  decide

/-- B9: BHE +1. -/
theorem test_bhe_b9 :
    after (start.withSw false false .neg) 16 0x8C08 fun t =>
      t.pc = 0x2002 := by
  decide

/-- B10: BV +1. -/
theorem test_bv_b10 :
    after (start.withSw false true .neg) 16 0x9008 fun t =>
      t.pc = 0x2004 := by
  decide

/-- B11: BNV +1. -/
theorem test_bnv_b11 :
    after (start.withSw false true .neg) 16 0x8E08 fun t =>
      t.pc = 0x2002 := by
  decide

/-- B12: BC +1. -/
theorem test_bc_b12 :
    after (start.withSw true true .neg) 16 0x9408 fun t =>
      t.pc = 0x2004 := by
  decide

/-- B13: BNC +1. -/
theorem test_bnc_b13 :
    after (start.withSw true false .neg) 16 0x9608 fun t =>
      t.pc = 0x2002 := by
  decide

/-- B19: BE +1. -/
theorem test_be_b19 :
    after (start.withSw false true .zero) 16 0x8408 fun t =>
      t.pc = 0x2002 := by
  decide

/-- R1: RSS. -/
theorem test_rss_r1 :
    after ((((start.setPc 0x4100).setB 0 0x8004).withBytes 0x8000 [0x00, 0x00, 0x20,
      0x06]).withSw false false .neg) 16 0x9E00 fun t =>
      t.b.read 0 = 0x8000 ∧ t.pc = 0x2006 := by
  decide

/-- R2: RE. -/
theorem test_re_r2 :
    after ((((start.setPc 0x4100).setB 0 0x8004).withBytes 0x8000 [0x00, 0x00, 0x20,
      0x06]).withSw false false .zero) 16 0x8400 fun t =>
      t.b.read 0 = 0x8000 ∧ t.pc = 0x2006 := by
  decide

/-- R5: RSS, Refused: MisalignedTarget. -/
theorem test_rss_r5 :
    stopOf ((((start.setPc 0x4100).setB 0 0x8004).withBytes 0x8000 [0x00, 0x00, 0x20,
      0x07]).withSw false false .neg) 16 0x9E00 = some (.inl (.misalignedTarget 0x2007)) := by
  decide

/-- R10: RV. -/
theorem test_rv_r10 :
    after ((((start.setPc 0x4100).setB 0 0x8004).withBytes 0x8000 [0x00, 0x00, 0x20,
      0x06]).withSw false true .zero) 16 0x9000 fun t =>
      t.b.read 0 = 0x8000 ∧ t.pc = 0x2006 := by
  decide

/-- E1: ESL 2,5,0b0011,8. -/
theorem test_esl_e1 :
    after (((start.setX 2 0x11111111).setX 3 0x22222222).setX 5 0xDEADBEEF) 32 0xE0A80610 fun t =>
      t.x.read 2 = 0x111111DE ∧ t.x.read 3 = 0xADBEEF22 ∧ t.pc = 0x2004 := by
  decide

/-- E2: ESR 2,5,0b0011,8. -/
theorem test_esr_e2 :
    after (((start.setX 2 0x11111111).setX 3 0x22222222).setX 5 0xDEADBEEF) 32 0xE2A80610 fun t =>
      t.x.read 2 = 0x11DEADBE ∧ t.x.read 3 = 0xEF222222 ∧ t.pc = 0x2004 := by
  decide

/-- E25: ESL 2,2,0b0011,4. -/
theorem test_esl_e25 :
    after ((start.setX 2 0xDEADBEEF).setX 3 0x0) 32 0xE0900608 fun t =>
      t.x.read 2 = 0xDEADBEED ∧ t.x.read 3 = 0xEADBEEF0 ∧ t.pc = 0x2004 := by
  decide

/-- H1: SHLB 2,3. -/
theorem test_shlb_h1 :
    after (start.setX 2 0xAABBCC96) 16 0x30B3 fun t =>
      t.x.read 2 = 0xAABBCCB0 ∧ t.pc = 0x2002 := by
  decide

/-- H2: SHRB 2,3. -/
theorem test_shrb_h2 :
    after (start.setX 2 0xAABBCC96) 16 0x32B3 fun t =>
      t.x.read 2 = 0xAABBCC12 ∧ t.pc = 0x2002 := by
  decide

/-- H3: ASRB 2,3. -/
theorem test_asrb_h3 :
    after (start.setX 2 0xAABBCC96) 16 0x36B3 fun t =>
      t.x.read 2 = 0xAABBCCF2 ∧ t.pc = 0x2002 := by
  decide

/-- H4: ROLB 2,3. -/
theorem test_rolb_h4 :
    after (start.setX 2 0xAABBCC96) 16 0x38B3 fun t =>
      t.x.read 2 = 0xAABBCCB4 ∧ t.pc = 0x2002 := by
  decide

/-- H5: RORB 2,3. -/
theorem test_rorb_h5 :
    after (start.setX 2 0xAABBCC96) 16 0x3AB3 fun t =>
      t.x.read 2 = 0xAABBCCD2 ∧ t.pc = 0x2002 := by
  decide

/-- H7: RRCB 2,3. -/
theorem test_rrcb_h7 :
    after ((start.setX 2 0xAABBCC96).withSw true false .zero) 16 0x3EB3 fun t =>
      t.x.read 2 = 0xAABBCCB2 ∧ t.pc = 0x2002 := by
  decide

/-- H9: SHRH 2,3. -/
theorem test_shrh_h9 :
    after (start.setX 2 0xAABB9234) 16 0x32A3 fun t =>
      t.x.read 2 = 0xAABB1246 ∧ t.pc = 0x2002 := by
  decide

/-- H10: ASRH 2,3. -/
theorem test_asrh_h10 :
    after (start.setX 2 0xAABB9234) 16 0x36A3 fun t =>
      t.x.read 2 = 0xAABBF246 ∧ t.pc = 0x2002 := by
  decide

/-- H11: ROLH 2,3. -/
theorem test_rolh_h11 :
    after (start.setX 2 0xAABB9234) 16 0x38A3 fun t =>
      t.x.read 2 = 0xAABB91A4 ∧ t.pc = 0x2002 := by
  decide

/-- H12: RORH 2,3. -/
theorem test_rorh_h12 :
    after (start.setX 2 0xAABB9234) 16 0x3AA3 fun t =>
      t.x.read 2 = 0xAABB9246 ∧ t.pc = 0x2002 := by
  decide

/-- H13: RLCH 2,3. -/
theorem test_rlch_h13 :
    after ((start.setX 2 0xAABB9234).withSw true false .zero) 16 0x3CA3 fun t =>
      t.x.read 2 = 0xAABB91A6 ∧ t.sw.c = false ∧ t.pc = 0x2002 := by
  decide

/-- H14: RRCH 2,3. -/
theorem test_rrch_h14 :
    after ((start.setX 2 0xAABB9234).withSw true false .zero) 16 0x3EA3 fun t =>
      t.x.read 2 = 0xAABB3246 ∧ t.pc = 0x2002 := by
  decide

/-- H15: SHL 2,3. -/
theorem test_shl_h15 :
    after (start.setX 2 0x80000001) 16 0x3083 fun t =>
      t.x.read 2 = 0x8 ∧ t.pc = 0x2002 := by
  decide

/-- H16: SHR 2,3. -/
theorem test_shr_h16 :
    after (start.setX 2 0x80000001) 16 0x3283 fun t =>
      t.x.read 2 = 0x10000000 ∧ t.pc = 0x2002 := by
  decide

/-- H17: ASR 2,3. -/
theorem test_asr_h17 :
    after (start.setX 2 0x80000001) 16 0x3683 fun t =>
      t.x.read 2 = 0xF0000000 ∧ t.pc = 0x2002 := by
  decide

/-- H18: ROL 2,3. -/
theorem test_rol_h18 :
    after (start.setX 2 0x80000001) 16 0x3883 fun t =>
      t.x.read 2 = 0xC ∧ t.pc = 0x2002 := by
  decide

/-- H19: ROR 2,3. -/
theorem test_ror_h19 :
    after (start.setX 2 0x80000001) 16 0x3A83 fun t =>
      t.x.read 2 = 0x30000000 ∧ t.pc = 0x2002 := by
  decide

/-- H20: RLC 2,3. -/
theorem test_rlc_h20 :
    after ((start.setX 2 0x80000001).withSw true false .zero) 16 0x3C83 fun t =>
      t.x.read 2 = 0xE ∧ t.sw.c = false ∧ t.pc = 0x2002 := by
  decide

/-- H21: RRC 2,3. -/
theorem test_rrc_h21 :
    after ((start.setX 2 0x80000001).withSw true false .zero) 16 0x3E83 fun t =>
      t.x.read 2 = 0x70000000 ∧ t.sw.c = false ∧ t.pc = 0x2002 := by
  decide

/-- H22: SHLL 2,36. -/
theorem test_shll_h22 :
    after ((start.setX 2 0x80000000).setX 3 0x1) 16 0x20A4 fun t =>
      t.x.read 2 = 0x10 ∧ t.x.read 3 = 0x0 ∧ t.pc = 0x2002 := by
  decide

/-- H23: SHRL 2,36. -/
theorem test_shrl_h23 :
    after ((start.setX 2 0x80000000).setX 3 0x1) 16 0x22A4 fun t =>
      t.x.read 2 = 0x0 ∧ t.x.read 3 = 0x8000000 ∧ t.pc = 0x2002 := by
  decide

/-- H24: ASRL 2,36. -/
theorem test_asrl_h24 :
    after ((start.setX 2 0x80000000).setX 3 0x1) 16 0x26A4 fun t =>
      t.x.read 2 = 0xFFFFFFFF ∧ t.x.read 3 = 0xF8000000 ∧ t.pc = 0x2002 := by
  decide

/-- H25: ROLL 2,36. -/
theorem test_roll_h25 :
    after ((start.setX 2 0x80000000).setX 3 0x1) 16 0x28A4 fun t =>
      t.x.read 2 = 0x18 ∧ t.x.read 3 = 0x0 ∧ t.pc = 0x2002 := by
  decide

/-- H26: RORL 2,36. -/
theorem test_rorl_h26 :
    after ((start.setX 2 0x80000000).setX 3 0x1) 16 0x2AA4 fun t =>
      t.x.read 2 = 0x0 ∧ t.x.read 3 = 0x18000000 ∧ t.pc = 0x2002 := by
  decide

/-- H27: RLCL 2,36. -/
theorem test_rlcl_h27 :
    after (((start.setX 2 0x80000000).setX 3 0x1).withSw true false .zero) 16 0x2CA4 fun t =>
      t.x.read 2 = 0x1C ∧ t.x.read 3 = 0x0 ∧ t.sw.c = false ∧ t.pc = 0x2002 := by
  decide

/-- H28: RRCL 2,36. -/
theorem test_rrcl_h28 :
    after (((start.setX 2 0x80000000).setX 3 0x1).withSw true false .zero) 16 0x2EA4 fun t =>
      t.x.read 2 = 0x0 ∧ t.x.read 3 = 0x38000000 ∧ t.sw.c = false ∧ t.pc = 0x2002 := by
  decide

/-- H34: SHLH 2,15. -/
theorem test_shlh_h34 :
    after (start.setX 2 0xAABB0001) 16 0x30AF fun t =>
      t.x.read 2 = 0xAABB8000 ∧ t.pc = 0x2002 := by
  decide

/-- H35: RLC 2,0. -/
theorem test_rlc_h35 :
    after ((start.setX 2 0x12345678).withSw true false .zero) 16 0x3C80 fun t =>
      t.pc = 0x2002 := by
  decide

/-- H38: RLCB 2,7. -/
theorem test_rlcb_h38 :
    after ((start.setX 2 0x81).withSw false false .zero) 16 0x3CB7 fun t =>
      t.x.read 2 = 0xA0 ∧ t.pc = 0x2002 := by
  decide

/-- H40: SHLL 2,63. -/
theorem test_shll_h40 :
    after ((start.setX 2 0x0).setX 3 0x3) 16 0x20BF fun t =>
      t.x.read 2 = 0x80000000 ∧ t.x.read 3 = 0x0 ∧ t.pc = 0x2002 := by
  decide

/-- O1: CLR 4. -/
theorem test_clr_o1 :
    after start 16 0x2484 fun t =>
      t.x.read 4 = 0x0 ∧ t.pc = 0x2002 := by
  decide

/-- O3: CLRL 4. -/
theorem test_clrl_o3 :
    after (start.setX 4 0x7) 16 0x24C4 fun t =>
      t.x.read 4 = 0x0 ∧ t.x.read 5 = 0x0 ∧ t.pc = 0x2002 := by
  decide

/-- O4: ABS 4. -/
theorem test_abs_o4 :
    after (start.setX 4 0x5) 16 0x248C fun t =>
      t.sw.v = false ∧ t.sw.r = .pos ∧ t.pc = 0x2002 := by
  decide

/-- O5: ABS 4. -/
theorem test_abs_o5 :
    after (start.setX 4 0xFFFFFFFB) 16 0x248C fun t =>
      t.x.read 4 = 0x5 ∧ t.sw.v = false ∧ t.sw.r = .pos ∧ t.pc = 0x2002 := by
  decide

/-- O9: NEG 4. -/
theorem test_neg_o9 :
    after (start.setX 4 0x5) 16 0x249C fun t =>
      t.x.read 4 = 0xFFFFFFFB ∧ t.sw.v = false ∧ t.sw.r = .neg ∧ t.pc = 0x2002 := by
  decide

/-- O12: NEG 4. -/
theorem test_neg_o12 :
    after (start.setX 4 0x80000000) 16 0x249C fun t =>
      t.sw.v = true ∧ t.sw.r = .neg ∧ t.pc = 0x2002 := by
  decide

/-- O14: INV 4. -/
theorem test_inv_o14 :
    after (start.setX 4 0xF0F1234) 16 0x2494 fun t =>
      t.x.read 4 = 0xF0F0EDCB ∧ t.pc = 0x2002 := by
  decide

/-- O15: NEGL 4. -/
theorem test_negl_o15 :
    after ((start.setX 4 0x0).setX 5 0x1) 16 0x24DC fun t =>
      t.x.read 4 = 0xFFFFFFFF ∧ t.x.read 5 = 0xFFFFFFFF ∧ t.sw.v = false ∧ t.sw.r = .neg ∧ t.pc = 0x2002 := by
  decide

/-- O18: ABSL 4. -/
theorem test_absl_o18 :
    after ((start.setX 4 0xFFFFFFFF).setX 5 0xFFFFFFFE) 16 0x24CC fun t =>
      t.x.read 4 = 0x0 ∧ t.x.read 5 = 0x2 ∧ t.sw.v = false ∧ t.sw.r = .pos ∧ t.pc = 0x2002 := by
  decide

/-- O19: INVL 4. -/
theorem test_invl_o19 :
    after ((start.setX 4 0x0).setX 5 0xFFFFFFFF) 16 0x24D4 fun t =>
      t.x.read 4 = 0xFFFFFFFF ∧ t.x.read 5 = 0x0 ∧ t.pc = 0x2002 := by
  decide

/-- N1: N 3,4. -/
theorem test_n_n1 :
    after (start.setX 4 0x12345) 16 0x259C fun t =>
      t.x.read 3 = 0xF ∧ t.x.read 4 = 0x91A28000 ∧ t.pc = 0x2002 := by
  decide

/-- N2: N 3,4. -/
theorem test_n_n2 :
    after (start.setX 4 0x80000000) 16 0x259C fun t =>
      t.x.read 3 = 0x0 ∧ t.pc = 0x2002 := by
  decide

/-- N5: NB 3,4. -/
theorem test_nb_n5 :
    after (start.setX 4 0xAABBCC05) 16 0x251C fun t =>
      t.x.read 3 = 0x5 ∧ t.x.read 4 = 0xAABBCCA0 ∧ t.pc = 0x2002 := by
  decide

/-- N6: NH 3,4. -/
theorem test_nh_n6 :
    after (start.setX 4 0xAABB0123) 16 0x255C fun t =>
      t.x.read 3 = 0x7 ∧ t.x.read 4 = 0xAABB9180 ∧ t.pc = 0x2002 := by
  decide

/-- N7: NL 3,4. -/
theorem test_nl_n7 :
    after ((start.setX 4 0x0).setX 5 0x12345) 16 0x25DC fun t =>
      t.x.read 3 = 0x2F ∧ t.x.read 4 = 0x91A28000 ∧ t.x.read 5 = 0x0 ∧ t.pc = 0x2002 := by
  decide

/-- N8: NL 3,4. -/
theorem test_nl_n8 :
    after ((start.setX 4 0x100).setX 5 0x80000001) 16 0x25DC fun t =>
      t.x.read 3 = 0x17 ∧ t.x.read 4 = 0x80400000 ∧ t.x.read 5 = 0x800000 ∧ t.pc = 0x2002 := by
  decide

/-! ### Conditions of spec/96_test_vectors_transfer.md, section 1, that no vector above takes -/

theorem test_lbe_taken : after (start.withSw false false .zero) 32 0xF0800005 fun t => t.pc = 0x200E := by
  decide

theorem test_lble_taken : after (start.withSw false false .zero) 32 0xF0C00005 fun t => t.pc = 0x200E := by
  decide

theorem test_lbne_taken : after (start.withSw false false .pos) 32 0xF1400005 fun t => t.pc = 0x200E := by
  decide

theorem test_lbhe_taken : after (start.withSw false false .pos) 32 0xF1800005 fun t => t.pc = 0x200E := by
  decide

theorem test_lbnv_taken : after (start.withSw false false .neg) 32 0xF1C00005 fun t => t.pc = 0x200E := by
  decide

theorem test_lbv_taken : after (start.withSw false true .neg) 32 0xF2000005 fun t => t.pc = 0x200E := by
  decide

theorem test_lbc_taken : after (start.withSw true true .zero) 32 0xF2800005 fun t => t.pc = 0x200E := by
  decide

theorem test_lbnc_taken : after (start.withSw false true .zero) 32 0xF2C00005 fun t => t.pc = 0x200E := by
  decide

theorem test_je_taken : after ((start.withSw false false .zero).setB 3 0x1000) 32 0xF0830040 fun t => t.pc =
  0x1040 ∧ t.x = start.x := by
  decide

theorem test_jle_taken : after ((start.withSw false false .zero).setB 3 0x1000) 32 0xF0C30040 fun t => t.pc =
  0x1040 ∧ t.x = start.x := by
  decide

theorem test_jh_taken : after ((start.withSw false false .pos).setB 3 0x1000) 32 0xF1030040 fun t => t.pc =
  0x1040 ∧ t.x = start.x := by
  decide

theorem test_jne_taken : after ((start.withSw false false .pos).setB 3 0x1000) 32 0xF1430040 fun t => t.pc =
  0x1040 ∧ t.x = start.x := by
  decide

theorem test_jhe_taken : after ((start.withSw false false .pos).setB 3 0x1000) 32 0xF1830040 fun t => t.pc =
  0x1040 ∧ t.x = start.x := by
  decide

theorem test_jnv_taken : after ((start.withSw false false .neg).setB 3 0x1000) 32 0xF1C30040 fun t => t.pc =
  0x1040 ∧ t.x = start.x := by
  decide

theorem test_jve_taken : after ((start.withSsw false false .zero).setB 3 0x1000) 32 0xF0830041 fun t => t.pc
  = 0x1040 ∧ t.x = start.x := by
  decide

theorem test_jvle_taken : after ((start.withSsw false false .zero).setB 3 0x1000) 32 0xF0C30041 fun t => t.pc
  = 0x1040 ∧ t.x = start.x := by
  decide

theorem test_jvh_taken : after ((start.withSsw false false .pos).setB 3 0x1000) 32 0xF1030041 fun t => t.pc =
  0x1040 ∧ t.x = start.x := by
  decide

theorem test_jvne_taken : after ((start.withSsw false false .pos).setB 3 0x1000) 32 0xF1430041 fun t => t.pc
  = 0x1040 ∧ t.x = start.x := by
  decide

theorem test_jvhe_taken : after ((start.withSsw false false .pos).setB 3 0x1000) 32 0xF1830041 fun t => t.pc
  = 0x1040 ∧ t.x = start.x := by
  decide

theorem test_jvnv_taken : after ((start.withSsw false false .neg).setB 3 0x1000) 32 0xF1C30041 fun t => t.pc
  = 0x1040 ∧ t.x = start.x := by
  decide

theorem test_jvv_taken : after ((start.withSsw false true .neg).setB 3 0x1000) 32 0xF2030041 fun t => t.pc =
  0x1040 ∧ t.x = start.x := by
  decide

theorem test_jvc_taken : after ((start.withSsw true true .zero).setB 3 0x1000) 32 0xF2830041 fun t => t.pc =
  0x1040 ∧ t.x = start.x := by
  decide

theorem test_jvnc_taken : after ((start.withSsw false true .zero).setB 3 0x1000) 32 0xF2C30041 fun t => t.pc
  = 0x1040 ∧ t.x = start.x := by
  decide

theorem test_ble_taken : after (start.withSw false false .zero) 16 0x8628 fun t => t.pc = 0x200C := by
  decide

theorem test_bh_taken : after (start.withSw false false .pos) 16 0x8828 fun t => t.pc = 0x200C := by
  decide

theorem test_rl_taken : after (((start.withSw false false .neg).setB 0 0x8004).withBytes 0x8000 [0x00, 0x00,
  0x20, 0x06]) 16 0x8200 fun t => t.b.read 0 = 0x8000 ∧ t.pc = 0x2006 := by
  decide

theorem test_rle_taken : after (((start.withSw false false .zero).setB 0 0x8004).withBytes 0x8000 [0x00,
  0x00, 0x20, 0x06]) 16 0x8600 fun t => t.b.read 0 = 0x8000 ∧ t.pc = 0x2006 := by
  decide

theorem test_rh_taken : after (((start.withSw false false .pos).setB 0 0x8004).withBytes 0x8000 [0x00, 0x00,
  0x20, 0x06]) 16 0x8800 fun t => t.b.read 0 = 0x8000 ∧ t.pc = 0x2006 := by
  decide

theorem test_rne_taken : after (((start.withSw false false .pos).setB 0 0x8004).withBytes 0x8000 [0x00, 0x00,
  0x20, 0x06]) 16 0x8A00 fun t => t.b.read 0 = 0x8000 ∧ t.pc = 0x2006 := by
  decide

theorem test_rhe_taken : after (((start.withSw false false .pos).setB 0 0x8004).withBytes 0x8000 [0x00, 0x00,
  0x20, 0x06]) 16 0x8C00 fun t => t.b.read 0 = 0x8000 ∧ t.pc = 0x2006 := by
  decide

theorem test_rnv_taken : after (((start.withSw false false .neg).setB 0 0x8004).withBytes 0x8000 [0x00, 0x00,
  0x20, 0x06]) 16 0x8E00 fun t => t.b.read 0 = 0x8000 ∧ t.pc = 0x2006 := by
  decide

theorem test_rc_taken : after (((start.withSw true true .zero).setB 0 0x8004).withBytes 0x8000 [0x00, 0x00,
  0x20, 0x06]) 16 0x9400 fun t => t.b.read 0 = 0x8000 ∧ t.pc = 0x2006 := by
  decide

theorem test_rnc_taken : after (((start.withSw false true .zero).setB 0 0x8004).withBytes 0x8000 [0x00, 0x00,
  0x20, 0x06]) 16 0x9600 fun t => t.b.read 0 = 0x8000 ∧ t.pc = 0x2006 := by
  decide

/-- F14: SIN 3; an unstated flag is unchanged under `preserve`. -/
theorem test_sin_f14 :
    after (start.withSw true false .neg) 16 0xA818 fun t =>
      t.pc = 0x2002 ∧ t.sw.c = true ∧ t.sw.v = false ∧ t.x = start.x := by
  decide

/-- A launch with no arguments starts at the state after reset. -/
theorem test_default_launch : ({} : Launch).start = State.reset := by decide

/-- A step from the state after reset finds no byte to fetch (60_exceptions.md R404). -/
theorem test_reset_step : step State.reset = .fault (.unmappedAccess 0) := by rfl

/-- The memory after reset has the canonical form. -/
theorem test_reset_memory : State.reset.mem.wf = true := by decide

/-- The condition table of spec/96_test_vectors_transfer.md, section 1: columns V=0 R=neg, zero, pos, and V=1. -/
theorem test_condition_table :
    ∀ d ∈ ([
      (.low, [true, false, false, false]), (.equal, [false, true, false, false]),
      (.lowOrEqual, [true, true, false, false]), (.high, [false, false, true, false]),
      (.notEqual, [true, false, true, false]), (.highOrEqual, [false, true, true, false]),
      (.noOverflow, [true, true, true, false]), (.overflow, [false, false, false, true]),
      (.always, [true, true, true, true])] : List (Cond × List Bool)),
      ([⟨false, false, .neg⟩, ⟨false, false, .zero⟩, ⟨false, false, .pos⟩, ⟨false, true, .zero⟩] :
        List Status).map (condHolds d.1) = d.2 := by
  decide

/-! ### Witnesses for the hypotheses of the statements -/

/-- `n` bytes from `a` on, each 0x10. -/
def cells (a n : Nat) : Memory := (List.range n).map fun k => (a + k, 0x10#8)

/-- A state with the given `pc`, every base register at `base`, and 32 supplied bytes from `area` on. -/
def spot (pc base : Addr) (area : Nat) : State :=
  { start with pc := pc, b := Vector.replicate 8 base, mem := cells area 32 }

/-- `pc` as high as a 4-byte instruction allows, and 32 supplied bytes that end with the address space. -/
def top : State := spot 0xFFFFFFFA 0xFFFFFFE0 0xFFFFFFE0

/-- `pc` as high as a 2-byte instruction allows, and a stack of exactly 32 bytes. -/
def bottom : State := spot 0xFFFFFFFC 0x20 0

/-- `pc` as high as a 2-byte instruction allows, and room above the stack for 32 bytes and no more. -/
def brim : State := spot 0xFFFFFFFC 0xFFFFFFDF 0

/-- `pc` as high as a 4-byte instruction allows, and 16 supplied bytes on either side of the end of the address space. -/
def across : State := { spot 0xFFFFFFFA 0xFFFFFFF0 0 with mem := cells 0 16 ++ cells 0xFFFFFFF0 16 }

/-- R15: the addresses of a range wrap, so the second half of the range is at the start of the address space. -/
theorem test_lmu_goes_on_at_zero :
    ∃ t, exec (.lmu 0 7 1 0#16) across = .next t ∧ t.x.read 3 = 0x10101010 ∧ t.x.read 7 = 0x10101010 :=
  ⟨_, rfl, by decide, by decide⟩

theorem test_stmu_goes_on_at_zero :
    ∃ t, exec (.stmu 0 7 1 0#16) (across.setX 4 0xAABBCCDD) = .next t ∧ t.mem.read 0 = some 0xAA#8 ∧
      t.mem.read 15 = some 0#8 ∧ t.mem.read 0xFFFFFFFF = some 0#8 :=
  ⟨_, rfl, by decide, by decide, by decide⟩

/-- The state from which the sequences of two instructions start: `pc` low, the stack at 0x8000. -/
def call : State := spot 0x4000 0x8000 0x8000

theorem test_call_sound : call.Sound :=
  { memoryCanonical := by decide
    memoryFits := by unfold State.addrLimit; decide
    pcEven := by decide
    pcFits := by decide
    baseFits := by unfold FileFits; decide
    scratchpadFits := by unfold FileFits; decide
    pointerScratchpadFits := by unfold FileFits; decide
    arrayScratchpadFits := by unfold FileFits; decide }

theorem test_witness_EncodedInstructionsDecodeToThemselves :
    (Instr.lmu 7 7 7 0xFFFC#16).wellFormed .normal = true ∧ (Instr.jms 0 0 1 0#16).wellFormed .simple = true ∧
      (Instr.lbrs 7 0xFFFF#16).wellFormed .localMode = true ∧ (Instr.bra 1#6).wellFormed .normal = true ∧
      defaultEsLayout.valid = true ∧ otherLayout.valid = true ∧ (Instr.esl 7 7 15#4 63#6).wellFormed .normal = true := by
  decide

/-- A short instruction, a long branch with its ignored digit set, a long instruction, and an ESL under a valid
layout. -/
theorem test_witness_DecodedHalfwordsEncodeBack :
    decode defaultEsLayout .normal 0x2FFF#16 0#16 = .instr (.rrcl 7 63#6) ∧
      decode defaultEsLayout .normal 0xF078#16 0xFFFF#16 = .instr (.lbl 0xFFFF#16) ∧
      decode defaultEsLayout .normal 0xEFFF#16 0xFFFD#16 = .instr (.stmuq 7 7 7 0xFFFC#16) ∧
      defaultEsLayout.valid = true ∧ otherLayout.valid = true ∧
      decode otherLayout .normal 0xE1F8#16 0x1FBC#16 = .instr (.esl 7 7 15#4 63#6) := by
  decide

/-- A word at the very end of the address space. -/
theorem test_witness_StepRunsTheDecodedInstruction :
    let s := (start.setPc 0xFFFFFFFC).withBytes 0xFFFFFFFC [0xF3, 0xC3, 0x00, 0x40]
    s.finished = false ∧ s.params.mode ≠ .compact ∧
      decodeBytes s.params.esLayout s.params.mode [0xF3, 0xC3, 0x00, 0x40] = some (.instr (.jmp 0 3 0x40#16), []) ∧
      (∀ k, k < 4 → s.mem.read (s.pc.toNat + k) = ([0xF3, 0xC3, 0x00, 0x40] : List Byte)[k]?) ∧
      s.pc.toNat + 4 = s.addrLimit := by
  decide

/-- One state for each clause, the fetches at the end of the address space. -/
theorem test_witness_StepStopsWhereNothingCanRun :
    (let s : State := { start with finished := true };
      s.finished = true) ∧
    (let s : State := { start with params := { start.params with mode := .compact } };
      s.finished = false ∧ s.params.mode = .compact) ∧
    (let s := start.setPc 0xFFFFFFFE;
      s.finished = false ∧ s.params.mode ≠ .compact ∧ s.pc.toNat + 2 = s.addrLimit ∧
        s.mem.read s.pc.toNat = none) ∧
    (let s := (start.setPc 0xFFFFFFFE).withBytes 0xFFFFFFFE [0x30, 0xB8];
      s.pc.toNat + 2 = s.addrLimit ∧ Holds s.mem s.pc.toNat 2 0x30B8 ∧
        needsSecond s.params.mode 0x30B8#16 = false ∧ decode s.params.esLayout s.params.mode 0x30B8#16 0 = .reserved) ∧
    (let s := (start.setPc 0xFFFFFFFE).withBytes 0xFFFFFFFE [0x80, 0x08];
      Holds s.mem s.pc.toNat 2 0x8008 ∧ needsSecond s.params.mode 0x8008#16 = false ∧
        decode s.params.esLayout s.params.mode 0x8008#16 0 = .unlisted) ∧
    (let s := (start.setPc 0xFFFFFFFC).withBytes 0xFFFFFFFC [0xE4, 0xA3, 0x00, 0x13];
      s.pc.toNat + 4 = s.addrLimit ∧ Holds s.mem s.pc.toNat 2 0xE4A3 ∧
        needsSecond s.params.mode 0xE4A3#16 = true ∧ Holds s.mem (s.pc.toNat + 2) 2 0x0013 ∧
        decode s.params.esLayout s.params.mode 0xE4A3#16 0x0013#16 = .reserved) ∧
    (let s := (start.setPc 0xFFFFFFFC).withBytes 0xFFFFFFFC [0xE4, 0xA3, 0x00, 0x10];
      Holds s.mem s.pc.toNat 2 0xE4A3 ∧ Holds s.mem (s.pc.toNat + 2) 2 0x0010 ∧
        decode s.params.esLayout s.params.mode 0xE4A3#16 0x0010#16 = .unlisted) := by
  unfold Holds
  decide

/-- A sound state with a CLR at `pc` and with program text that holds bytes. -/
def running : State :=
  { call with pc := 0x2000, mem := [(0x2000, 0x24#8), (0x2001, 0x84#8), (0x2002, 0x24#8), (0x2003, 0x84#8)] }

theorem test_witness_StepKeepsStatesSound : running.Sound ∧ ∃ t, step running = .next t :=
  ⟨{ memoryCanonical := by decide
     memoryFits := by unfold State.addrLimit; decide
     pcEven := by decide
     pcFits := by decide
     baseFits := by unfold FileFits; decide
     scratchpadFits := by unfold FileFits; decide
     pointerScratchpadFits := by unfold FileFits; decide
     arrayScratchpadFits := by unfold FileFits; decide }, _, rfl⟩

/-- A launch whose entry is the last halfword of the address space. -/
def lastLaunch : Launch :=
  { params := { start.params with endPc := some 0xFFFFFFFC, text := [⟨0xFFFFFFFE, 2⟩] }
    entryPc := 0xFFFFFFFE
    image := [(0xFFFFFFFE, 0x9F#8), (0xFFFFFFFF, 0xF0#8)] }

theorem test_witness_ValidLaunchesStartSound : lastLaunch.valid = true := by decide

theorem test_witness_StepKeepsParametersAndSavedStatus : ∃ t, step running = .next t := ⟨_, rfl⟩

theorem test_witness_StepKeepsProgramTextAndSuppliedBytes :
    (∃ t, step running = .next t) ∧ inText running.params 0x2003 = true ∧
      (running.mem.read 0x2003).isSome = true :=
  ⟨⟨_, rfl⟩, by decide, by decide⟩

theorem test_witness_OnlyStoresChangeMemory :
    ∃ t, exec (.stmuPush 0 7) call = .next t ∧ t.mem ≠ call.mem := ⟨_, rfl, by decide⟩

theorem test_witness_OnlyTheirLoadsChangeScratchpads :
    (∃ t, exec (.slsb 7 1 0#16) call = .next t ∧ t.sb.read 7 ≠ call.sb.read 7) ∧
      (∃ t, exec (.slpsb 0 1 0#16) call = .next t ∧ t.psb.read 0 ≠ call.psb.read 0) ∧
      ∃ t, exec (.slasb 7 1 0#16) call = .next t ∧ t.asb.read 7 ≠ call.asb.read 7 :=
  ⟨⟨_, rfl, by decide⟩, ⟨_, rfl, by decide⟩, ⟨_, rfl, by decide⟩⟩

/-- A run of one step, BRA -2 at the last halfword, that ends at `END_PC`. -/
theorem test_witness_FinishedRunsEndAtEndPc : ∃ t, run 1 lastLaunch.start = .finished t := ⟨_, rfl⟩

/-- The last word of the address space. -/
theorem test_witness_StoredValueReadsBack :
    0xFFFFFFFF < 256 ^ 4 ∧ ∃ t, memWrite start 0xFFFFFFFC 4 0xFFFFFFFF = .ok t := ⟨by decide, _, rfl⟩

theorem test_witness_LoadMultipleFromMemory :
    across.pc.toNat + 4 < across.addrLimit ∧ (0 : RegNum) ≤ 7 ∧ (6 : RegNum) ≤ 7 ∧
      RangeMapped across (ea0 1 0 across).toNat 4 (rangeCount 0 7) ∧
      RangeMapped across (ea0 1 0 across).toNat across.addrBytes (rangeCount 0 7) ∧
      RangeMapped across (ea0 1 0 across).toNat 16 (rangeCount 6 7) := by
  unfold RangeMapped Mapped
  decide

theorem test_witness_StoreMultipleToMemory :
    across.pc.toNat + 4 < across.addrLimit ∧ FileFits across.addrLimit across.b ∧
      RangeClear across (ea0 1 0 across).toNat 4 (rangeCount 0 7) ∧
      RangeClear across (ea0 1 0 across).toNat across.addrBytes (rangeCount 0 7) ∧
      RangeClear across (ea0 1 0 across).toNat 16 (rangeCount 6 7) := by
  unfold FileFits RangeClear ClearOfText
  decide

theorem test_witness_PopsLowerTheStackAndLoad :
    (bottom.b.read 0).toNat ≤ bottom.addrLimit ∧ bottom.pc.toNat + 2 < bottom.addrLimit ∧
      (rangeCount 0 7 * 4 = (bottom.b.read 0).toNat ∧
        Mapped bottom.mem ((bottom.b.read 0).toNat - rangeCount 0 7 * 4) (rangeCount 0 7 * 4)) ∧
      ((1 : RegNum) ≠ 0 ∧ rangeCount 1 7 * bottom.addrBytes ≤ (bottom.b.read 0).toNat ∧
        Mapped bottom.mem ((bottom.b.read 0).toNat - rangeCount 1 7 * bottom.addrBytes)
          (rangeCount 1 7 * bottom.addrBytes)) ∧
      rangeCount 6 7 * 16 = (bottom.b.read 0).toNat ∧
        Mapped bottom.mem ((bottom.b.read 0).toNat - rangeCount 6 7 * 16) (rangeCount 6 7 * 16) := by
  unfold Mapped
  decide

theorem test_witness_PushesStoreAndRaiseTheStack :
    brim.pc.toNat + 2 < brim.addrLimit ∧ FileFits brim.addrLimit brim.b ∧
      ((brim.b.read 0).toNat + rangeCount 0 7 * 4 + 1 = brim.addrLimit ∧
        ClearOfText brim (brim.b.read 0).toNat (rangeCount 0 7 * 4)) ∧
      ((brim.b.read 0).toNat + rangeCount 0 7 * brim.addrBytes + 1 = brim.addrLimit ∧
        ClearOfText brim (brim.b.read 0).toNat (rangeCount 0 7 * brim.addrBytes)) ∧
      (brim.b.read 0).toNat + rangeCount 6 7 * 16 + 1 = brim.addrLimit ∧
        ClearOfText brim (brim.b.read 0).toNat (rangeCount 6 7 * 16) := by
  unfold FileFits ClearOfText
  decide

theorem test_witness_PopRestoresWhatPushSaved :
    FileFits call.addrLimit call.b ∧
      (∃ t, exec (.stmuPush 0 7) call = .next t ∧ t = { t with x := t.x } ∧ t.pc.toNat + 2 < t.addrLimit) ∧
      (∃ t, exec (.stmubrPush 1 7) call = .next t ∧ t = { t with b := t.b } ∧ t.pc.toNat + 2 < t.addrLimit) ∧
      ∃ t, exec (.stmuqPush 7 7) call = .next t ∧ t = { t with f := t.f } ∧ t.pc.toNat + 2 < t.addrLimit :=
  ⟨by unfold FileFits; decide, ⟨_, rfl, rfl, by decide⟩, ⟨_, rfl, rfl, by decide⟩,
    ⟨_, rfl, rfl, by decide⟩⟩

/-- The last word of the address space, for each of the four. -/
theorem test_witness_SupplementaryLoads :
    top.pc.toNat + 4 < top.addrLimit ∧ (ea0 1 0x1C#16 top).toNat + top.addrBytes = top.addrLimit ∧
      Holds top.mem (ea0 1 0x1C#16 top).toNat top.addrBytes (0x10101010 : Addr).toNat := by
  unfold Holds
  decide

theorem test_witness_SupplementaryStores :
    FileFits top.addrLimit top.b ∧ FileFits top.addrLimit top.sb ∧ FileFits top.addrLimit top.psb ∧
      FileFits top.addrLimit top.asb ∧ top.pc.toNat + 4 < top.addrLimit ∧
      (ea0 1 0x1C#16 top).toNat + top.addrBytes = top.addrLimit ∧
      ClearOfText top (ea0 1 0x1C#16 top).toNat top.addrBytes := by
  unfold FileFits ClearOfText
  decide

/-- Every condition is met by some status word, and every one but "always" is unmet by some. -/
theorem test_conditions_can_go_either_way :
    ∀ c ∈ ([.low, .equal, .lowOrEqual, .high, .notEqual, .highOrEqual, .noOverflow, .overflow, .carry, .noCarry] :
      List Cond),
      (([⟨false, false, .neg⟩, ⟨false, false, .zero⟩, ⟨true, true, .pos⟩, ⟨false, false, .pos⟩] :
        List Status).any fun w => condHolds c w) = true ∧
      (([⟨false, false, .neg⟩, ⟨false, false, .zero⟩, ⟨true, true, .pos⟩, ⟨false, false, .pos⟩] :
        List Status).any fun w => !condHolds c w) = true := by
  decide

/-- A direct even target at the top of the address space, and an indexed one out of its last word. -/
theorem test_jump_targets :
    JumpsTo top 0 1 0x1E#16 0xFFFFFFFE ∧ (0xFFFFFFFE : Addr).getLsbD 0 = false ∧
      JumpsTo (top.setX 7 0xFFFFFFFF) 7 1 0x1D#16 0x10101010 ∧ (0x10101010 : Addr).getLsbD 0 = false := by
  unfold JumpsTo Holds
  decide

theorem test_witness_JumpsOnTheStatusWord :
    (condHolds .equal top.sw = true ∧ JumpsTo top 0 1 0x1E#16 0xFFFFFFFE ∧
      (0xFFFFFFFE : Addr).getLsbD 0 = false) ∧
      condHolds .low top.sw = false ∧ top.pc.toNat + 4 < top.addrLimit :=
  ⟨⟨by decide, test_jump_targets.1, by decide⟩, by decide, by decide⟩

theorem test_witness_JumpsOnTheSavedStatus :
    (condHolds .equal top.ssw = true ∧ JumpsTo top 0 1 0x1E#16 0xFFFFFFFE ∧
      (0xFFFFFFFE : Addr).getLsbD 0 = false) ∧
      condHolds .low top.ssw = false ∧ top.pc.toNat + 4 < top.addrLimit :=
  ⟨⟨by decide, test_jump_targets.1, by decide⟩, by decide, by decide⟩

/-- `pc` for a 4-byte instruction, and room above the stack for one address and no more. -/
def lastCall : State := spot 0xFFFFFFFA 0xFFFFFFFB 0

theorem test_witness_JumpToSubroutineSavesTheReturnAddress :
    JumpsTo lastCall 0 1 0x1#16 0xFFFFFFFC ∧ (0xFFFFFFFC : Addr).getLsbD 0 = false ∧
      lastCall.pc.toNat + 4 < lastCall.addrLimit ∧
      (lastCall.b.read 0).toNat + lastCall.addrBytes + 1 = lastCall.addrLimit ∧
      ClearOfText lastCall (lastCall.b.read 0).toNat lastCall.addrBytes := by
  unfold JumpsTo Holds ClearOfText
  decide

/-- A target of the last halfword of the address space, or of its first: the ends of the range of targets. -/
theorem test_witness_LongBranchToSubroutineSavesTheReturnAddress :
    lastCall.pc.getLsbD 0 = false ∧ lastCall.pc.toNat + 4 < lastCall.addrLimit ∧
      ((0xFFFFFFFE : Addr).toNat : Int) = lastCall.pc.toNat + 4 + 2 * (0#16).toInt ∧
      (0xFFFFFFFE : Addr).toNat < lastCall.addrLimit ∧
      (lastCall.b.read 0).toNat + lastCall.addrBytes < lastCall.addrLimit ∧
      ClearOfText lastCall (lastCall.b.read 0).toNat lastCall.addrBytes := by
  unfold ClearOfText
  decide

theorem test_witness_CountAndCompareJumps :
    ((0xFFFFFFFE#32).toInt < (0#32 - 1).toInt ∧ (ea0 1 0x1E#16 top).getLsbD 0 = false) ∧
      ((0x80000000#32 - 1#32).toInt ≤ (0x7FFFFFFF#32).toInt ∧ top.pc.toNat + 4 < top.addrLimit) ∧
      ((0x7FFFFFFF#32 + 1#32).toInt ≤ (0x80000000#32).toInt) ∧
      ((0x80000000#32).toInt < (0x80000000#32 + 1#32).toInt) := by
  decide

theorem test_witness_CountAndCompareLongBranches :
    (top.pc.getLsbD 0 = false ∧ ((0xFFFFFFFE : Addr).toNat : Int) = top.pc.toNat + 4 + 2 * (0#16).toInt ∧
      (0xFFFFFFFE : Addr).toNat < top.addrLimit) ∧
      top.pc.toNat + 4 < top.addrLimit ∧
      ((0xFFFFFFFE#32).toInt < (0#32 - 1).toInt ∧ (0x80000000#32 - 1#32).toInt ≤ (0x7FFFFFFF#32).toInt) ∧
      ((0x7FFFFFFF#32 + 1#32).toInt ≤ (0x80000000#32).toInt ∧
        (0x80000000#32).toInt < (0x80000000#32 + 1#32).toInt) := by
  decide

/-- Targets at address 0 and at the last halfword. -/
theorem test_witness_LongBranches :
    (condHolds .equal start.sw = true ∧ start.pc.getLsbD 0 = false ∧
      ((0 : Addr).toNat : Int) = start.pc.toNat + 4 + 2 * (0xEFFE#16).toInt ∧
      (0 : Addr).toNat < start.addrLimit) ∧
      ((0xFFFFFFFE : Addr).toNat : Int) = top.pc.toNat + 4 + 2 * (0#16).toInt ∧
      condHolds .low top.sw = false ∧ top.pc.toNat + 4 < top.addrLimit := by
  decide

theorem test_witness_ShortBranches :
    (condHolds .equal bottom.sw = true ∧ bottom.pc.getLsbD 0 = false ∧
      ((0xFFFFFFFE : Addr).toNat : Int) = bottom.pc.toNat + 2 + 2 * (0#6).toInt ∧
      (0xFFFFFFFE : Addr).toNat < bottom.addrLimit) ∧
      ((0 : Addr).toNat : Int) = (start.setPc 0x3E).pc.toNat + 2 + 2 * (0x20#6).toInt ∧
      condHolds .low bottom.sw = false ∧ bottom.pc.toNat + 2 < bottom.addrLimit := by
  decide

/-- A stack of exactly one address, of an even or an odd one, and a stack one byte short of it. -/
theorem test_witness_ReturnsPopTheProgramCounter :
    (let s := (bottom.setB 0 4).withBytes 0 [0xFF, 0xFF, 0xFF, 0xFE];
      condHolds .always s.sw = true ∧ s.addrBytes = (s.b.read 0).toNat ∧ (s.b.read 0).toNat ≤ s.addrLimit ∧
        Holds s.mem ((s.b.read 0).toNat - s.addrBytes) s.addrBytes (0xFFFFFFFE : Addr).toNat ∧
        (0xFFFFFFFE : Addr).getLsbD 0 = false) ∧
    (let s := (bottom.setB 0 4).withBytes 0 [0xFF, 0xFF, 0xFF, 0xFF];
      Holds s.mem ((s.b.read 0).toNat - s.addrBytes) s.addrBytes (0xFFFFFFFF : Addr).toNat ∧
        (0xFFFFFFFF : Addr).getLsbD 0 = true) ∧
    (let s := bottom.setB 0 3;
      condHolds .always s.sw = true ∧ (s.b.read 0).toNat < s.addrBytes) ∧
    condHolds .low bottom.sw = false ∧ bottom.pc.toNat + 2 < bottom.addrLimit := by
  unfold Holds
  decide

theorem test_witness_ReturnUndoesAStackCall :
    call.Sound ∧ (∃ t, exec (.jms 0 0 1 0xFFFE#16) call = .next t) ∧
      ∃ t, exec (.lbrs 0 0x7FFF#16) call = .next t :=
  ⟨test_call_sound, ⟨_, rfl⟩, ⟨_, rfl⟩⟩

theorem test_witness_JumpThroughTheLinkRegisterReturns :
    call.Sound ∧ (7 : RegNum) ≠ 0 ∧ (∃ t, exec (.jms 7 0 1 0xFFFE#16) call = .next t) ∧
      ∃ t, exec (.lbrs 7 0x7FFF#16) call = .next t :=
  ⟨test_call_sound, by decide, ⟨_, rfl⟩, ⟨_, rfl⟩⟩

theorem test_witness_ExtensibleShiftsCombineBits :
    (6 : RegNum) ≠ 7 ∧ (32#6).toNat ≤ 32 ∧ (0 : Nat) = 32 - (32#6).toNat ∧
      top.pc.toNat + 4 < top.addrLimit := by
  decide

theorem test_witness_ExtensibleShiftsDoEachOthersWork : (32#6).toNat ≤ 32 ∧ (6 : RegNum) ≠ 7 := by decide

theorem test_witness_ByteShifts : bottom.pc.toNat + 2 < bottom.addrLimit := by decide

theorem test_witness_HalfwordShifts : bottom.pc.toNat + 2 < bottom.addrLimit := by decide

theorem test_witness_WordShifts : bottom.pc.toNat + 2 < bottom.addrLimit := by decide

theorem test_witness_LongShifts : (6 : RegNum).getLsbD 0 = false ∧ bottom.pc.toNat + 2 < bottom.addrLimit := by
  decide

theorem test_witness_ClearAndInvert : bottom.pc.toNat + 2 < bottom.addrLimit := by decide

theorem test_witness_ClearAndInvertLong :
    (6 : RegNum).getLsbD 0 = false ∧ bottom.pc.toNat + 2 < bottom.addrLimit := by
  decide

theorem test_witness_NegateAndAbsoluteValue :
    (6 : RegNum).getLsbD 0 = false ∧ bottom.pc.toNat + 2 < bottom.addrLimit := by
  decide

/-- The least operands of each width, in registers whose other bits are set. -/
theorem test_witness_NormalizeByteAndHalfword :
    (0x01#8 = ((bottom.setX 7 0xFFFFFF01).x.read 7).setWidth 8 ∧ (0 : RegNum) ≠ 7 ∧ 0x01#8 ≠ 0) ∧
      (0x0001#16 = ((bottom.setX 7 0xFFFF0001).x.read 7).setWidth 16 ∧ 0x0001#16 ≠ 0) ∧
      bottom.pc.toNat + 2 < bottom.addrLimit := by
  decide

theorem test_witness_NormalizeWordAndLong :
    ((0 : RegNum) ≠ 7 ∧ (bottom.setX 7 1).x.read 7 ≠ 0) ∧
      ((6 : RegNum).getLsbD 0 = false ∧ (5 : RegNum) ≠ 6 ∧ (5 : RegNum) ≠ 6 + 1 ∧
        readPair 6 (bottom.setX 7 1) ≠ 0) ∧
      bottom.pc.toNat + 2 < bottom.addrLimit := by
  decide

theorem test_witness_MathematicalFunctions : bottom.pc.toNat + 2 < bottom.addrLimit := by decide

theorem test_witness_SignOfAQuad : bottom.pc.toNat + 2 < bottom.addrLimit := by decide

theorem test_witness_ClearNegateAndAbsoluteQuad :
    bottom.pc.toNat + 2 < bottom.addrLimit ∧ qOrdinary qZero = true := ⟨by decide, qOrdinary_qZero⟩

theorem test_witness_OddLongRegistersStop : (7 : RegNum).getLsbD 0 = true := by decide

theorem test_witness_RangesWithoutMeaningStop : (0 : RegNum) < 1 := by decide

theorem test_witness_ShiftAndNormalizeOperandsWithoutMeaningStop :
    ((6 : RegNum) ≠ 7 ∧ 32 < (33#6).toNat) ∧ (6 : RegNum).getLsbD 0 = false ∧ (5 : RegNum) ≠ 6 ∧
      (5 : RegNum) ≠ 6 + 1 ∧ readPair 6 start = 0 ∧
      ((start.setX 6 0xFFFFFF00).x.read 6).setWidth 8 = 0#8 ∧
      ((start.setX 6 0xFFFF0000).x.read 6).setWidth 16 = 0#16 ∧ start.x.read 6 = 0 := by
  decide

/-- Each stop records its instruction (R402): both operands of an ESL without meaning, an odd NL with an overlap. -/
theorem test_reserved_operand_records :
    exec (.esl 7 0 0#4 33#6) start = .fault (.reservedOperand (.esl 7 0 0#4 33#6) .pairPastLast) ∧
      exec (.nl 5 5) start = .fault (.reservedOperand (.nl 5 5) (.oddLongRegister 5)) ∧
      exec (.lmu 3 2 1 0#16) start = .fault (.reservedOperand (.lmu 3 2 1 0#16) (.descendingRange 3 2)) :=
  ⟨rfl, rfl, rfl⟩

/-- The highest odd target, direct, an odd word of memory, indexed, the highest stack a call can push on, and a
count that meets each compare. -/
theorem test_witness_JumpsToOddTargetsStop :
    condHolds .equal top.sw = true ∧ condHolds .equal top.ssw = true ∧ JumpsTo top 0 1 0x1F#16 0xFFFFFFFF ∧
      (0xFFFFFFFF : Addr).getLsbD 0 = true ∧
      JumpsTo (top.withBytes 0xFFFFFFFF [0x11]) 7 1 0x1C#16 0x10101011 ∧ (0x10101011 : Addr).getLsbD 0 = true ∧
      (let s := top.setB 0 0xFFFFFFFB;
        s.pc.toNat + 4 < s.addrLimit ∧ (s.b.read 0).toNat + s.addrBytes < s.addrLimit ∧
          ClearOfText s (s.b.read 0).toNat s.addrBytes ∧ JumpsTo s 0 1 0x1F#16 0xFFFFFFFF) ∧
      (let s := top.setX 1 0x80000000;
        (ea0 1 0x1F#16 s).getLsbD 0 = true ∧
          (let x := s.x.write 1 (s.x.read 1 - 1); (x.read 7).toInt < (x.read 1).toInt) ∧
          (let x := s.x.write 7 (s.x.read 7 + 1); (x.read 7).toInt ≤ (x.read 7).toInt)) := by
  unfold JumpsTo Holds ClearOfText
  decide

/-- A single access one byte too far, with a byte missing, with a byte of text, and so for the last element of the
longest range: across the end of the address space, beyond it at an unsupplied address 0, at text. -/
theorem test_witness_AccessesThatCannotBeMadeStop :
    LoadStops top (ea0 1 0x1D#16 top).toNat top.addrBytes (.addressWrap 0xFFFFFFFD) ∧
      StoreStops top (ea0 1 0x1D#16 top).toNat top.addrBytes (.addressWrap 0xFFFFFFFD) ∧
      LoadStops call (ea0 1 0x1D#16 call).toNat call.addrBytes (.unmappedAccess 0x8020) ∧
      (let s := spot 0x4000 0x1FFD 0x8000;
        StoreStops s (ea0 1 0#16 s).toNat s.addrBytes (.storeToText 0x2000)) ∧
      RangeLoadStops top (ea0 1 0x2#16 top).toNat 4 (rangeCount 0 7) (.addressWrap 0xFFFFFFFE) ∧
      RangeLoadStops top (ea0 1 0x4#16 top).toNat 4 (rangeCount 0 7) (.unmappedAccess 0) ∧
      RangeStoreStops top (ea0 1 0x2#16 top).toNat 4 (rangeCount 0 7) (.addressWrap 0xFFFFFFFE) ∧
      (let s := spot 0x4000 0x1FE4 0x8000;
        RangeStoreStops s (s.b.read 0).toNat 4 (rangeCount 0 7) (.storeToText 0x2000)) ∧
      (let s := spot 0xFFFFFFFA 0x21 0;
        rangeCount 0 7 * 4 ≤ (s.b.read 0).toNat ∧ s.pc.toNat + 4 < s.addrLimit ∧
          RangeLoadStops s ((s.b.read 0).toNat - rangeCount 0 7 * 4) 4 (rangeCount 0 7) (.unmappedAccess 0x20) ∧
          LoadStops s ((s.b.read 0).toNat - s.addrBytes) s.addrBytes (.unmappedAccess 0x20) ∧
          condHolds .equal s.sw = true ∧ condHolds .equal s.ssw = true) ∧
      (let s := top.setB 0 0xFFFFFFFD;
        StoreStops s (s.b.read 0).toNat s.addrBytes (.addressWrap 0xFFFFFFFD) ∧ JumpsTo s 0 1 0#16 0xFFFFFFE0) ∧
      LoadStops top (ea1 7 1 0x1D#16 top).toNat top.addrBytes (.addressWrap 0xFFFFFFFD) := by
  refine ⟨.inl (by decide), .inl (by decide), .inr ⟨by decide, 3, ?_⟩, .inr ⟨by decide, 3, ?_⟩,
    ⟨7, by decide, ?_, .inl (by decide)⟩, ⟨7, by decide, ?_, .inr ⟨by decide, 0, ?_⟩⟩,
    ⟨7, by decide, ?_, .inl (by decide)⟩, ⟨7, by decide, ?_, .inr ⟨by decide, 0, ?_⟩⟩,
    ⟨by decide, by decide, ⟨7, by decide, ?_, .inr ⟨by decide, 3, ?_⟩⟩, .inr ⟨by decide, 3, ?_⟩, by decide, by decide⟩,
    ⟨.inl (by decide), ?_⟩, .inl (by decide)⟩
  all_goals simp only [RangeMapped, RangeClear, Mapped, ClearOfText, JumpsTo, Holds]
  all_goals decide

/-- CLR goes on in sequence wherever `pc` has room. -/
theorem test_clr_goes_on (s : State) (p : Addr) (h : p.toNat + 2 < s.addrLimit) :
    ∃ t, exec (.clr 0) { s with pc := p } = .next t ∧ t.pc.toNat = p.toNat + 2 := by
  refine ⟨_, outcomeOf_next (advance_completes (len := 2) h), ?_⟩
  have := s.addrLimit_le
  exact addr_add_toNat (a := p) (n := 2) (by omega)

theorem test_witness_LeavingTheAddressSpaceStops :
    (let s := start.setPc 0xFFFFFFFE;
      s.addrLimit = s.pc.toNat + (Instr.clr 0).length ∧
        ∀ p : Addr, p.getLsbD 0 = false → p.toNat + (Instr.clr 0).length < s.addrLimit →
          ∃ t, exec (.clr 0) { s with pc := p } = .next t ∧ t.pc.toNat = p.toNat + (Instr.clr 0).length) ∧
    (let s := (start.setPc 0xFFFFFFFC).setB 1 0x10;
      s.addrLimit = s.pc.toNat + 4 ∧ JumpsTo s 0 1 0#16 0x10 ∧ condHolds .equal s.sw = true) ∧
    ((-2 : Int) = (start.setPc 0x3C).pc.toNat + 2 + 2 * (0x20#6).toInt ∧
      (0x100000000 : Int) = (start.setPc 0xFFFFFFFE).pc.toNat + 2 + 2 * (0#6).toInt) ∧
    ((-2 : Int) = (start.setPc 0).pc.toNat + 4 + 2 * (0xFFFD#16).toInt ∧
      (0x100000000 : Int) = (start.setPc 0xFFFFFFFC).pc.toNat + 4 + 2 * (0#16).toInt) ∧
    (let s := start.setX 1 0x80000000;
      (let x := s.x.write 1 (s.x.read 1 - 1); (x.read 7).toInt < (x.read 1).toInt) ∧
        (let x := s.x.write 7 (s.x.read 7 + 1); (x.read 7).toInt ≤ (x.read 7).toInt)) ∧
    (let s := call.setPc 0xFFFFFFFA;
      (0x100000000 : Int) = s.pc.toNat + 4 + 2 * (1#16).toInt ∧ s.pc.toNat + 4 < s.addrLimit ∧
        (s.b.read 0).toNat + s.addrBytes < s.addrLimit ∧ ClearOfText s (s.b.read 0).toNat s.addrBytes) ∧
    ((bottom.setB 0 0x1F).b.read 0).toNat < rangeCount 0 7 * 4 ∧
    (let s := spot 0x4000 0xFFFFFFE0 0x8000;
      s.addrLimit ≤ (s.b.read 0).toNat + rangeCount 0 7 * 4 ∧
        RangeClear s (s.b.read 0).toNat 4 (rangeCount 0 7)) ∧
    (let s := spot 0x4000 0xFFFFFFE4 0x8000;
      s.addrLimit ≤ (s.b.read 0).toNat + rangeCount 0 7 * 4 ∧
        RangeClear s (s.b.read 0).toNat 4 (rangeCount 0 7)) ∧
    (let s := spot 0x4000 0xFFFFFFE1 0x8000;
      s.addrLimit ≤ (s.b.read 0).toNat + rangeCount 0 7 * 4 ∧
        RangeStoreStops s (s.b.read 0).toNat 4 (rangeCount 0 7) (.addressWrap 0xFFFFFFFD)) ∧
    (let s := spot 0x4000 0xFFFFFFFC 0x8000;
      s.addrLimit ≤ (s.b.read 0).toNat + s.addrBytes ∧ JumpsTo s 0 1 0#16 0xFFFFFFFC ∧
        4 = (s.addrLimit - (s.b.read 0).toNat) / s.addrBytes * s.addrBytes ∧
        ClearOfText s (s.b.read 0).toNat 4) := by
  refine ⟨⟨by decide, fun p _ h => test_clr_goes_on _ p h⟩, ?_, ?_, ?_, ?_, ?_, ?_, ?_, ?_,
    ⟨by decide, 7, by decide, ?_, .inl (by decide)⟩, ?_⟩
  all_goals first
    | decide
    | (unfold ClearOfText; decide)
    | (unfold RangeClear ClearOfText; decide)
    | (unfold JumpsTo Holds; decide)
    | (unfold JumpsTo Holds ClearOfText; decide)

/-- A fetch of each halfword that passes the end, and of each whose last byte is missing. -/
theorem test_witness_FetchesThatCannotBeMadeStop :
    (let s := start.setPc 0xFFFFFFFF;
      s.finished = false ∧ s.params.mode ≠ .compact ∧ LoadStops s s.pc.toNat 2 (.addressWrap 0xFFFFFFFF)) ∧
    (let s := start.withBytes 0x2000 [0xF3];
      LoadStops s s.pc.toNat 2 (.unmappedAccess 0x2001)) ∧
    (let s := (start.setPc 0xFFFFFFFE).withBytes 0xFFFFFFFE [0xF3, 0xC3];
      s.pc.toNat + 2 = s.addrLimit ∧ Holds s.mem s.pc.toNat 2 0xF3C3 ∧ needsSecond s.params.mode 0xF3C3#16 = true ∧
        LoadStops s (s.pc.toNat + 2) 2 (.addressWrap 0x100000000)) ∧
    (let s := start.withBytes 0x2000 [0xF3, 0xC3, 0x00];
      Holds s.mem s.pc.toNat 2 0xF3C3 ∧ LoadStops s (s.pc.toNat + 2) 2 (.unmappedAccess 0x2003)) := by
  refine ⟨⟨by decide, by decide, .inl (by decide)⟩, .inr ⟨by decide, 1, ?_⟩, ⟨by decide, ?_, by decide, .inl (by decide)⟩,
    ?_, .inr ⟨by decide, 1, ?_⟩⟩
  all_goals simp only [Mapped, Holds]
  all_goals decide

end Sys2Proof.Machine
end

section
/-! SUPPORT. What the decoder reads, the encoder gives back: each code of 30_encoding.md is the code of what it
names, each instruction of a row is encoded in the row's format, and each row of R98 gives back the halfwords it
was read from, but for the bits its format ignores. -/

namespace Sys2Proof.Reencoding

/-! ### Codes and small fields -/

theorem code_of_condOfCode {c : BitVec 4} {k : Cond} (h : condOfCode c = some k) : k.code = c := by
  have all : ∀ c, (condOfCode c).all (fun k => k.code = c) := by decide
  simpa [h] using all c

theorem code_of_fpFnOfCode {c : BitVec 5} {fn : FpFn} (h : fpFnOfCode c = some fn) : fn.code = c := by
  have all : ∀ c, (fpFnOfCode c).all (fun fn => fn.code = c) := by decide
  simpa [h] using all c

theorem code_fpTypeOfCode : ∀ ty : BitVec 2, (fpTypeOfCode ty).code = ty := by decide

theorem code_of_shiftOpOfCode {c : BitVec 3} {op : ShiftOp} (h : shiftOpOfCode c = some op) : op.code = c := by
  have all : ∀ c, (shiftOpOfCode c).all (fun op => op.code = c) := by decide
  simpa [h] using all c

/-- The one code of `sop` that is no shift, with `h[12] = 0`, is opcode 022 (R92). -/
theorem rest_of_no_shift : ∀ rest : BitVec 4, shiftOpOfCode (rest.extractLsb' 0 3) = none →
    rest.getLsbD 3 = false → rest = 0b0010#4 := by decide

theorem narrowBit_sop : ∀ rest : BitVec 4, BitVec.ofBool (rest.getLsbD 3) ++ rest.extractLsb' 0 3 = rest := by decide

theorem fpType_fnHigh : ∀ rest : BitVec 4, rest.extractLsb' 2 2 ++ rest.extractLsb' 0 2 = rest := by decide

theorem byteCount_code : ∀ cc : BitVec 6, cc.getLsbD 5 = true → cc.getLsbD 4 = true → cc.getLsbD 3 = false →
    0b110#3 ++ cc.extractLsb' 0 3 = cc := by decide

theorem halfwordCount_code : ∀ cc : BitVec 6, cc.getLsbD 5 = true → cc.getLsbD 4 = false →
    0b10#2 ++ cc.extractLsb' 0 4 = cc := by decide

theorem wordCount_code : ∀ cc : BitVec 6, cc.getLsbD 5 = false → 0b0#1 ++ cc.extractLsb' 0 5 = cc := by decide

/-- The opcodes 170 and 171 hold the high bit of the condition in `h[9]` (R85, R88). -/
theorem conditionOpcode_lowBit : ∀ rest : BitVec 4, rest.toNat = 8 ∨ rest.toNat = 9 →
    0b100#3 ++ rest.extractLsb' 0 1 = rest := by decide

theorem eq_ofNat_of_toNat {w n : Nat} {x : BitVec w} (h : x.toNat = n) : x = BitVec.ofNat w n := by
  simp [← h]

/-! ### An instruction and its halfwords -/

/-- `i` is an instruction of mode `m`, and its halfwords are `ws`. -/
structure EncodesTo (lay : EsLayout) (m : Mode) (i : Instr) (ws : List Half) : Prop where
  wellFormed : i.wellFormed m = true
  halves : encode lay m i = ws

theorem wellFormed_of_transfer {m : Mode} {i : Instr} (hm : m ≠ .compact) (ha : i.availability = .transfer)
    (ho : i.operandsOk = true) : i.wellFormed m = true := by
  cases m <;> simp_all [Instr.wellFormed, Mode.hasGroup]

theorem wellFormed_of_operate {m : Mode} {i : Instr} (hm : m ≠ .compact) (hl : m ≠ .localMode)
    (ha : i.availability = .operate) (ho : i.operandsOk = true) : i.wellFormed m = true := by
  cases m <;> simp_all [Instr.wellFormed, Mode.hasGroup]

theorem wellFormed_of_normal {i : Instr} (ho : i.operandsOk = true) : i.wellFormed .normal = true := by
  simp [Instr.wellFormed, Mode.hasGroup, ho]

theorem evenAddress_addressField {rB : RegNum} (s : Half) (hB : rB ≠ 0#3) :
    evenAddress rB (addressField s) = true := by
  rw [evenAddress, addressField_even]
  simpa using hB

theorem addressField_bit1 (s : Half) : (addressField s).getLsbD 1 = s.getLsbD 1 := by
  rw [addressField, BitVec.getLsbD_append]
  simp

theorem wordAddress_addressField {rB : RegNum} {s : Half} (hB : rB ≠ 0#3) (h1 : s.getLsbD 1 = false) :
    wordAddress rB (addressField s) = true := by
  rw [wordAddress, addressField_even, addressField_bit1, h1]
  simpa using hB

/-! ### The instruction of each row is encoded in the row's format -/

section Rows
variable {lay : EsLayout} {m : Mode} {i : Instr}

theorem jumpOf_encodesTo (hm : m ≠ .compact) (c : Cond) {rX rB : RegNum} {addr : Half}
    (ha : evenAddress rB addr = true) : EncodesTo lay m (jumpOf c rX rB addr) (encodeJump m c false rX rB addr) := by
  cases c <;> exact ⟨wellFormed_of_transfer hm rfl ha, rfl⟩

theorem savedJumpOf_encodesTo (hm : m ≠ .compact) {c : Cond} {rX rB : RegNum} {addr : Half}
    (ha : evenAddress rB addr = true) (h : savedJumpOf c rX rB addr = .instr i) :
    EncodesTo lay m i (encodeJump m c true rX rB addr) := by
  cases c <;> cases h <;> exact ⟨wellFormed_of_transfer hm rfl ha, rfl⟩

theorem longBranchOf_encodesTo (hm : m ≠ .compact) (c : Cond) (disp : Half) :
    EncodesTo lay m (longBranchOf c disp) (encodeLongBranch m c disp) := by
  cases c <;> exact ⟨wellFormed_of_transfer hm rfl rfl, rfl⟩

theorem branchOf_encodesTo (c : Cond) {disp : BitVec 6} (hd : disp ≠ 0#6) :
    EncodesTo lay .normal (branchOf c disp) (encodeBranch c disp) := by
  have ho : (disp != 0) = true := by simpa using hd
  cases c <;> exact ⟨wellFormed_of_normal ho, rfl⟩

theorem returnOf_encodesTo (c : Cond) : EncodesTo lay .normal (returnOf c) (encodeBranch c 0#6) := by
  cases c <;> exact ⟨wellFormed_of_normal rfl, rfl⟩

theorem multipleOf_encodesTo (hm : m ≠ .compact) {rest : BitVec 4} {r1 r2 rB : RegNum} {addr : Half}
    (ha : wordAddress rB addr = true) (h : multipleOf rest r1 r2 rB addr = .instr i) :
    EncodesTo lay m i (encodeMr32 m rest r1 r2 rB addr m.multipleBit) := by
  unfold multipleOf at h
  split at h <;> cases h
  all_goals
    next hr =>
      rw [eq_ofNat_of_toNat hr]
      exact ⟨wellFormed_of_transfer hm rfl ha, rfl⟩

theorem stackOf_encodesTo {rest : BitVec 4} {r1 r2 : RegNum} (h : stackOf rest r1 r2 = .instr i) :
    EncodesTo lay .normal i (encodeStack rest r1 r2) := by
  unfold stackOf at h
  split at h <;> cases h
  all_goals
    next hr =>
      rw [eq_ofNat_of_toNat hr]
      exact ⟨wellFormed_of_normal rfl, rfl⟩

theorem supplementaryOf_encodesTo (hm : m ≠ .compact) (k : BitVec 3) {r rB : RegNum} {addr : Half}
    (ha : wordAddress rB addr = true) :
    EncodesTo lay m (supplementaryOf k r rB addr) (encodeMr32 m 0b1010#4 k r rB addr true) := by
  have hk := k.isLt
  generalize hn : k.toNat = n at hk
  rw [eq_ofNat_of_toNat hn]
  interval_cases n <;> exact ⟨wellFormed_of_transfer hm rfl ha, rfl⟩

theorem byteShiftOf_encodesTo (hm : m ≠ .compact) (hl : m ≠ .localMode) (op : ShiftOp) (r : RegNum) (n : BitVec 3) :
    EncodesTo lay m (byteShiftOf op r n) (encodeShift true op r (0b110#3 ++ n)) := by
  cases op <;> exact ⟨wellFormed_of_operate hm hl rfl rfl, rfl⟩

theorem halfwordShiftOf_encodesTo (hm : m ≠ .compact) (hl : m ≠ .localMode) (op : ShiftOp) (r : RegNum)
    (n : BitVec 4) : EncodesTo lay m (halfwordShiftOf op r n) (encodeShift true op r (0b10#2 ++ n)) := by
  cases op <;> exact ⟨wellFormed_of_operate hm hl rfl rfl, rfl⟩

theorem wordShiftOf_encodesTo (hm : m ≠ .compact) (hl : m ≠ .localMode) (op : ShiftOp) (r : RegNum) (n : BitVec 5) :
    EncodesTo lay m (wordShiftOf op r n) (encodeShift true op r (0b0#1 ++ n)) := by
  cases op <;> exact ⟨wellFormed_of_operate hm hl rfl rfl, rfl⟩

theorem longShiftOf_encodesTo (hm : m ≠ .compact) (hl : m ≠ .localMode) (op : ShiftOp) (r : RegNum) (n : BitVec 6) :
    EncodesTo lay m (longShiftOf op r n) (encodeShift false op r n) := by
  cases op <;> exact ⟨wellFormed_of_operate hm hl rfl rfl, rfl⟩

/-- The six bits `cc` are the width's code and the count, whichever the width (R92). -/
theorem decodeNarrowShift_encodesTo (hm : m ≠ .compact) (hl : m ≠ .localMode) {op : ShiftOp} {r : RegNum}
    {cc : BitVec 6} (h : decodeNarrowShift op r cc = .instr i) : EncodesTo lay m i (encodeShift true op r cc) := by
  unfold decodeNarrowShift at h
  split at h
  case isTrue h5 =>
    split at h
    case isTrue h4 =>
      split at h
      case isTrue => cases h
      case isFalse h3 =>
        cases h
        have := byteShiftOf_encodesTo (lay := lay) hm hl op r (cc.extractLsb' 0 3)
        rwa [byteCount_code cc h5 h4 (by simpa using h3)] at this
    case isFalse h4 =>
      cases h
      have := halfwordShiftOf_encodesTo (lay := lay) hm hl op r (cc.extractLsb' 0 4)
      rwa [halfwordCount_code cc h5 (by simpa using h4)] at this
  case isFalse h5 =>
    cases h
    have := wordShiftOf_encodesTo (lay := lay) hm hl op r (cc.extractLsb' 0 5)
    rwa [wordCount_code cc (by simpa using h5)] at this

theorem singleOf_encodesTo (hm : m ≠ .compact) (hl : m ≠ .localMode) (long : Bool) {uop : BitVec 3} {r : RegNum}
    (h : singleOf long uop r = .instr i) :
    EncodesTo lay m i (encodeSingle (if long then 3#3 else 2#3) uop r) := by
  unfold singleOf at h
  split at h <;> cases h
  all_goals
    next hu =>
      rw [eq_ofNat_of_toNat hu]
      cases long <;> exact ⟨wellFormed_of_operate hm hl rfl rfl, rfl⟩

theorem decodeSingle_encodesTo (hm : m ≠ .compact) (hl : m ≠ .localMode) {f2 f1 f0 : BitVec 3}
    (h : decodeSingle f2 f1 f0 = .instr i) : EncodesTo lay m i (encodeSingle f2 f1 f0) := by
  unfold decodeSingle at h
  split at h
  case h_1 h2 => rw [eq_ofNat_of_toNat h2]; exact singleOf_encodesTo hm hl false h
  case h_2 h2 => rw [eq_ofNat_of_toNat h2]; exact singleOf_encodesTo hm hl true h
  all_goals cases h
  all_goals
    next h2 =>
      rw [eq_ofNat_of_toNat h2]
      exact ⟨wellFormed_of_operate hm hl rfl rfl, rfl⟩

/-- CLR, ABS, SGN and NEG are encoded for type Q only; the other functions for the four types (46_math_functions.md
R323). -/
theorem functionOf_encodesTo {ty : FpType} {fn : FpFn} {r : RegNum} (h : functionOf ty fn r = .instr i) :
    EncodesTo lay .normal i (encodeFunction ty fn r) := by
  cases fn
  case clr | abs | sgn | neg =>
    simp only [functionOf] at h
    split at h
    case isTrue hq =>
      cases h
      subst hq
      exact ⟨wellFormed_of_normal rfl, rfl⟩
    case isFalse => cases h
  all_goals cases ty <;> cases h <;> exact ⟨wellFormed_of_normal rfl, rfl⟩

end Rows

/-! ### The formats, filled with the fields of the halfwords -/

theorem encodeMr32_fields {m : Mode} {h s : Half} (hp : opPrefix h = m.transferPrefix) :
    encodeMr32 m (opRest h) (digit2 h) (digit1 h) (digit0 h) (addressField s) (extensionBit s) = [h, s] := by
  rw [encodeMr32, ← hp, firstHalf_fields, addressHalf_fields]

theorem encodeLb32_fields {m : Mode} {h : Half} (s : Half) (hp : opPrefix h = m.transferPrefix)
    (h0 : digit0 h = 0#3) : encodeLb32 m (opRest h) (digit2 h) (digit1 h) s = [h, s] := by
  rw [encodeLb32, ← hp, ← h0, firstHalf_fields]

theorem firstHalf_clear_digit1 (p : BitVec 3) (rest : BitVec 4) (f2 f1 f0 : BitVec 3) :
    firstHalf p rest f2 f1 f0 &&& 0xFFC7#16 = firstHalf p rest f2 0#3 f0 := by
  apply BitVec.eq_of_getLsbD_eq
  intro j hj
  simp only [firstHalf, BitVec.getLsbD_and, BitVec.getLsbD_append]
  interval_cases j <;> simp

/-- Format LB32 with its digit `h[5:3]` ignored (R88): the encoder gives it back as zero. -/
theorem encodeLb32_ignored_digit {m : Mode} {h : Half} (s : Half) (hp : opPrefix h = m.transferPrefix)
    (h0 : digit0 h = 0#3) : encodeLb32 m (opRest h) (digit2 h) 0#3 s = [h &&& 0xFFC7#16, s] := by
  have clear := firstHalf_clear_digit1 (opPrefix h) (opRest h) (digit2 h) (digit1 h) (digit0 h)
  rw [firstHalf_fields, hp, h0] at clear
  rw [encodeLb32, clear]

theorem encodeStack_fields {h : Half} (hp : opPrefix h = 0b111#3) (h0 : digit0 h = 0#3) :
    encodeStack (opRest h) (digit2 h) (digit1 h) = [h] := by
  rw [encodeStack, ← hp, ← h0, firstHalf_fields]

theorem encodeShift_fields {h : Half} {op : ShiftOp} (hp : opPrefix h = 0b001#3)
    (hop : shiftOpOfCode ((opRest h).extractLsb' 0 3) = some op) :
    encodeShift ((opRest h).getLsbD 3) op (digit2 h) (digit1 h ++ digit0 h) = [h] := by
  rw [encodeShift, code_of_shiftOpOfCode hop, narrowBit_sop, BitVec.extractLsb'_append_eq_left,
    BitVec.extractLsb'_append_eq_right, ← hp, firstHalf_fields]

theorem encodeSingle_fields {h : Half} (hp : opPrefix h = 0b001#3) (hr : opRest h = 0b0010#4) :
    encodeSingle (digit2 h) (digit1 h) (digit0 h) = [h] := by
  rw [encodeSingle, ← hp, ← hr, firstHalf_fields]

theorem encodeBranch_fields {h : Half} {c : Cond} (hp : opPrefix h = 0b100#3) (h0 : digit0 h = 0#3)
    (hc : condOfCode (opRest h) = some c) : encodeBranch c (digit2 h ++ digit1 h) = [h] := by
  rw [encodeBranch, code_of_condOfCode hc, BitVec.extractLsb'_append_eq_left, BitVec.extractLsb'_append_eq_right,
    ← hp, ← h0, firstHalf_fields]

theorem encodeFunction_fields {h : Half} {fn : FpFn} (hp : opPrefix h = 0b101#3) (h0 : digit0 h = 0#3)
    (hf : fpFnOfCode ((opRest h).extractLsb' 0 2 ++ digit2 h) = some fn) :
    encodeFunction (fpTypeOfCode ((opRest h).extractLsb' 2 2)) fn (digit1 h) = [h] := by
  rw [encodeFunction, code_fpTypeOfCode, code_of_fpFnOfCode hf, BitVec.extractLsb'_append_eq_left,
    BitVec.extractLsb'_append_eq_right, fpType_fnHigh, ← hp, ← h0, firstHalf_fields]

/-- A jump's opcode and digit `F2` hold the code of its condition (R85). -/
theorem encodeJump_eq_encodeMr32 {m : Mode} {rest : BitVec 4} {f2 : BitVec 3} {c : Cond}
    (hr : rest.toNat = 8 ∨ rest.toNat = 9) (hc : condOfCode (rest.extractLsb' 0 1 ++ f2) = some c) (e : Bool)
    (rX rB : RegNum) (addr : Half) : encodeJump m c e rX rB addr = encodeMr32 m rest f2 rX rB addr e := by
  rw [encodeJump, code_of_condOfCode hc, BitVec.extractLsb'_append_eq_left, BitVec.extractLsb'_append_eq_right,
    conditionOpcode_lowBit rest hr]

/-- A long branch's opcode and digit `F2` hold the code of its condition (R88). -/
theorem encodeLongBranch_eq_encodeLb32 {m : Mode} {rest : BitVec 4} {f2 : BitVec 3} {c : Cond}
    (hr : rest.toNat = 8 ∨ rest.toNat = 9) (hc : condOfCode (rest.extractLsb' 0 1 ++ f2) = some c) (disp : Half) :
    encodeLongBranch m c disp = encodeLb32 m rest f2 0#3 disp := by
  rw [encodeLongBranch, code_of_condOfCode hc, BitVec.extractLsb'_append_eq_left, BitVec.extractLsb'_append_eq_right,
    conditionOpcode_lowBit rest hr]

/-! ### What each row gives back -/

/-- The halfwords of a 4-byte instruction read from `h`, `s`, without the bits that its format ignores: the digit
`h[5:3]` of the long branches and LBRS (R88), and the bits of ESL and ESR that the layout gives to no field. -/
def longHalves (lay : EsLayout) (h s : Half) : List Half :=
  if digit0 h = 0#3 ∧ (opRest h = 8#4 ∨ opRest h = 9#4 ∨ opRest h = 12#4) then [h &&& 0xFFC7#16, s]
  else if digit0 h = 0#3 ∧ (opRest h = 0#4 ∨ opRest h = 1#4) then [h, s &&& lay.fieldBits]
  else [h, s]

/-- `i` is an instruction of mode `m`, encoded as what the decoder read of `h`, `s`. -/
def ReadsBack (lay : EsLayout) (m : Mode) (h s : Half) (i : Instr) : Prop :=
  EncodesTo lay m i (if needsSecond m h then longHalves lay h s else [h])

theorem longHalves_of_base {h : Half} (lay : EsLayout) (s : Half) (h0 : digit0 h ≠ 0#3) :
    longHalves lay h s = [h, s] := by
  simp [longHalves, h0]

section Transfer
variable {lay : EsLayout} {m : Mode} {h s : Half} {i : Instr}

theorem readsBack_of_long (hn : needsSecond m h = true) (hi : EncodesTo lay m i (longHalves lay h s)) :
    ReadsBack lay m h s i := by
  rwa [ReadsBack, if_pos hn]

theorem readsBack_of_short (hn : needsSecond m h = false) (hi : EncodesTo lay m i [h]) : ReadsBack lay m h s i := by
  rwa [ReadsBack, if_neg (by simp [hn])]

/-- Format MR32, which has no bit to ignore (R84). -/
theorem readsBack_of_mr32 (hp : opPrefix h = m.transferPrefix) (h0 : digit0 h ≠ 0#3)
    (hn : needsSecond m h = true) {e : Bool} (he : extensionBit s = e)
    (hi : EncodesTo lay m i (encodeMr32 m (opRest h) (digit2 h) (digit1 h) (digit0 h) (addressField s) e)) :
    ReadsBack lay m h s i := by
  apply readsBack_of_long hn
  rwa [← he, encodeMr32_fields hp, ← longHalves_of_base lay s h0] at hi

/-- Format LB32 with both register digits (R88). -/
theorem readsBack_of_lb32 (hp : opPrefix h = m.transferPrefix) (h0 : digit0 h = 0#3)
    (hn : needsSecond m h = true) (hr : opRest h = 10#4 ∨ opRest h = 11#4)
    (hi : EncodesTo lay m i (encodeLb32 m (opRest h) (digit2 h) (digit1 h) s)) : ReadsBack lay m h s i := by
  apply readsBack_of_long hn
  have hl : longHalves lay h s = [h, s] := by rcases hr with hr | hr <;> simp [longHalves, hr]
  rwa [encodeLb32_fields s hp h0, ← hl] at hi

/-- Format LB32 with the digit `h[5:3]` ignored (R88). -/
theorem readsBack_of_lb32_ignored_digit (hp : opPrefix h = m.transferPrefix) (h0 : digit0 h = 0#3)
    (hn : needsSecond m h = true) (hr : opRest h = 8#4 ∨ opRest h = 9#4 ∨ opRest h = 12#4)
    (hi : EncodesTo lay m i (encodeLb32 m (opRest h) (digit2 h) 0#3 s)) : ReadsBack lay m h s i := by
  apply readsBack_of_long hn
  have hl : longHalves lay h s = [h &&& 0xFFC7#16, s] := if_pos ⟨h0, hr⟩
  rwa [encodeLb32_ignored_digit s hp h0, ← hl] at hi

/-- Format ES32 under any valid layout (R90, row 8 of R98). -/
theorem readsBack_of_extensible (hl : lay.valid = true) {left : Bool} (hp : opPrefix h = 0b111#3)
    (h0 : digit0 h = 0#3) (hr : opRest h = if left then 0#4 else 1#4)
    (hd : decodeExtensible lay left h s = .instr i) : ReadsBack lay .normal h s i := by
  have back := encodeExtensible_decoded hl h s hp h0
  unfold decodeExtensible at hd
  split at hd
  case isFalse => cases hd
  case isTrue =>
    cases left
    all_goals
      cases hd
      apply readsBack_of_long (by simp [needsSecond, hp, h0, hr, Mode.transferPrefix])
      refine ⟨wellFormed_of_normal rfl, ?_⟩
      have hw : longHalves lay h s = [h, s &&& lay.fieldBits] := by simp [longHalves, h0, hr]
      rw [hw, ← back, hr]
      rfl

/-! ### The rows of the 32-bit instructions and the stack forms, by `h[12:9]` -/

/-- Opcode 160 (rows 8 and 9 of R98). -/
theorem readsBack_of_esl_or_jms (hl : lay.valid = true) (hm : m ≠ .compact) (hp : opPrefix h = m.transferPrefix)
    (hr : opRest h = 0#4) (hd : decodeTransfer lay m h s = .instr i) : ReadsBack lay m h s i := by
  simp only [decodeTransfer, hr, BitVec.toNat_ofNat, Nat.reducePow, Nat.reduceMod] at hd
  split at hd
  case isTrue h0 =>
    split at hd
    case isTrue hn => subst hn; exact readsBack_of_extensible (left := true) hl hp h0 hr hd
    case isFalse => cases hd
  case isFalse h0 =>
    split at hd
    case isTrue => cases hd
    case isFalse he =>
      cases hd
      apply readsBack_of_mr32 hp h0 (by simp [needsSecond, hm, hp, hr, h0]) (by simpa using he)
      rw [hr]
      exact ⟨wellFormed_of_transfer hm rfl (evenAddress_addressField s h0), rfl⟩

/-- Opcode 161 (row 8 of R98). -/
theorem readsBack_of_esr (hl : lay.valid = true) (hp : opPrefix h = m.transferPrefix)
    (hr : opRest h = 1#4) (hd : decodeTransfer lay m h s = .instr i) : ReadsBack lay m h s i := by
  simp only [decodeTransfer, hr, BitVec.toNat_ofNat, Nat.reducePow, Nat.reduceMod] at hd
  split at hd
  case isTrue hc =>
    obtain ⟨h0, hn⟩ := hc
    subst hn
    exact readsBack_of_extensible (left := false) hl hp h0 hr hd
  case isFalse => cases hd

/-- Opcodes 162 to 167. -/
theorem decodeTransfer_multiple (hlo : 2 ≤ (opRest h).toNat) (hhi : (opRest h).toNat ≤ 7) :
    decodeTransfer lay m h s =
      if digit0 h = 0#3 then (if m = .normal then stackOf (opRest h) (digit2 h) (digit1 h) else .unlisted)
      else if extensionBit s != m.multipleBit then .unlisted
      else if s.getLsbD 1 then .reserved
      else multipleOf (opRest h) (digit2 h) (digit1 h) (digit0 h) (addressField s) := by
  rw [decodeTransfer]
  interval_cases (opRest h).toNat <;> rfl

/-- Opcodes 162 to 167 (rows 10 and 11 of R98). -/
theorem readsBack_of_multiple (hm : m ≠ .compact) (hp : opPrefix h = m.transferPrefix)
    (hlo : 2 ≤ (opRest h).toNat) (hhi : (opRest h).toNat ≤ 7) (hd : decodeTransfer lay m h s = .instr i) :
    ReadsBack lay m h s i := by
  have hs : needsSecond m h = (digit0 h != 0#3) := by
    simp only [needsSecond, hp]
    interval_cases (opRest h).toNat <;> simp [hm]
  rw [decodeTransfer_multiple hlo hhi] at hd
  split at hd
  case isTrue h0 =>
    split at hd
    case isTrue hn =>
      subst hn
      apply readsBack_of_short (by simp [hs, h0])
      rw [← encodeStack_fields hp h0]
      exact stackOf_encodesTo hd
    case isFalse => cases hd
  case isFalse h0 =>
    split at hd
    case isTrue => cases hd
    case isFalse he =>
      split at hd
      case isTrue => cases hd
      case isFalse h1 =>
        apply readsBack_of_mr32 hp h0 (by simp [hs, h0]) (by simpa using he)
        exact multipleOf_encodesTo hm (wordAddress_addressField h0 (by simpa using h1)) hd

theorem decodeTransfer_noCondition (hr : (opRest h).toNat = 8 ∨ (opRest h).toNat = 9)
    (hc : condOfCode ((opRest h).extractLsb' 0 1 ++ digit2 h) = none) : decodeTransfer lay m h s = .unlisted := by
  rcases hr with hr | hr <;> simp only [decodeTransfer, hr, hc]

/-- Opcodes 170 and 171, with a condition of the tables: the long branch and the two kinds of jump. -/
theorem decodeTransfer_condition (hr : (opRest h).toNat = 8 ∨ (opRest h).toNat = 9) {c : Cond}
    (hc : condOfCode ((opRest h).extractLsb' 0 1 ++ digit2 h) = some c) :
    decodeTransfer lay m h s =
      if digit0 h = 0#3 then .instr (longBranchOf c s)
      else if extensionBit s then savedJumpOf c (digit1 h) (digit0 h) (addressField s)
      else .instr (jumpOf c (digit1 h) (digit0 h) (addressField s)) := by
  rcases hr with hr | hr <;> simp only [decodeTransfer, hr, hc]

/-- Opcodes 170 and 171 (rows 12 to 14 of R98). -/
theorem readsBack_of_conditional (hm : m ≠ .compact) (hp : opPrefix h = m.transferPrefix)
    (hr : (opRest h).toNat = 8 ∨ (opRest h).toNat = 9) (hd : decodeTransfer lay m h s = .instr i) :
    ReadsBack lay m h s i := by
  have hn : needsSecond m h = true := by rcases hr with hr | hr <;> simp [needsSecond, hm, hp, hr]
  cases hc : condOfCode ((opRest h).extractLsb' 0 1 ++ digit2 h) with
  | none =>
    rw [decodeTransfer_noCondition hr hc] at hd
    cases hd
  | some c =>
    rw [decodeTransfer_condition hr hc] at hd
    split at hd
    case isTrue h0 =>
      cases hd
      apply readsBack_of_lb32_ignored_digit hp h0 hn (by rcases hr with hr | hr <;> simp [eq_ofNat_of_toNat hr])
      rw [← encodeLongBranch_eq_encodeLb32 hr hc]
      exact longBranchOf_encodesTo hm c s
    case isFalse h0 =>
      have ha := evenAddress_addressField s h0
      split at hd
      case isTrue he =>
        apply readsBack_of_mr32 hp h0 hn he
        rw [← encodeJump_eq_encodeMr32 hr hc]
        exact savedJumpOf_encodesTo hm ha hd
      case isFalse he =>
        cases hd
        apply readsBack_of_mr32 hp h0 hn (e := false) (by simpa using he)
        rw [← encodeJump_eq_encodeMr32 hr hc]
        exact jumpOf_encodesTo hm c ha

/-- Opcode 172 (rows 15 to 17 of R98). -/
theorem readsBack_of_lbxh_or_jxh_or_supplementary (hm : m ≠ .compact) (hp : opPrefix h = m.transferPrefix)
    (hr : opRest h = 10#4) (hd : decodeTransfer lay m h s = .instr i) : ReadsBack lay m h s i := by
  have hn : needsSecond m h = true := by simp [needsSecond, hm, hp, hr]
  simp only [decodeTransfer, hr, BitVec.toNat_ofNat, Nat.reducePow, Nat.reduceMod] at hd
  split at hd
  case isTrue h0 =>
    cases hd
    apply readsBack_of_lb32 hp h0 hn (.inl hr)
    rw [hr]
    exact ⟨wellFormed_of_transfer hm rfl rfl, rfl⟩
  case isFalse h0 =>
    split at hd
    case isTrue he =>
      split at hd
      case isTrue => cases hd
      case isFalse h1 =>
        cases hd
        apply readsBack_of_mr32 hp h0 hn he
        rw [hr]
        exact supplementaryOf_encodesTo hm _ (wordAddress_addressField h0 (by simpa using h1))
    case isFalse he =>
      cases hd
      apply readsBack_of_mr32 hp h0 hn (e := false) (by simpa using he)
      rw [hr]
      exact ⟨wellFormed_of_transfer hm rfl (evenAddress_addressField s h0), rfl⟩

/-- Opcode 173 (rows 15 and 16 of R98). -/
theorem readsBack_of_lbxle_or_jxle (hm : m ≠ .compact) (hp : opPrefix h = m.transferPrefix)
    (hr : opRest h = 11#4) (hd : decodeTransfer lay m h s = .instr i) : ReadsBack lay m h s i := by
  have hn : needsSecond m h = true := by simp [needsSecond, hm, hp, hr]
  simp only [decodeTransfer, hr, BitVec.toNat_ofNat, Nat.reducePow, Nat.reduceMod] at hd
  split at hd
  case isTrue h0 =>
    cases hd
    apply readsBack_of_lb32 hp h0 hn (.inr hr)
    rw [hr]
    exact ⟨wellFormed_of_transfer hm rfl rfl, rfl⟩
  case isFalse h0 =>
    split at hd
    case isTrue => cases hd
    case isFalse he =>
      cases hd
      apply readsBack_of_mr32 hp h0 hn (e := false) (by simpa using he)
      rw [hr]
      exact ⟨wellFormed_of_transfer hm rfl (evenAddress_addressField s h0), rfl⟩

/-- Opcode 174 (row 18 of R98). -/
theorem readsBack_of_lbrs (hm : m ≠ .compact) (hp : opPrefix h = m.transferPrefix)
    (hr : opRest h = 12#4) (hd : decodeTransfer lay m h s = .instr i) : ReadsBack lay m h s i := by
  simp only [decodeTransfer, hr, BitVec.toNat_ofNat, Nat.reducePow, Nat.reduceMod] at hd
  split at hd
  case isTrue h0 =>
    cases hd
    apply readsBack_of_lb32_ignored_digit hp h0 (by simp [needsSecond, hm, hp, hr, h0]) (.inr (.inr hr))
    rw [hr]
    exact ⟨wellFormed_of_transfer hm rfl rfl, rfl⟩
  case isFalse => cases hd

/-- Rows 8 to 18 of R98. -/
theorem readsBack_of_decodeTransfer (hl : lay.valid = true) (hm : m ≠ .compact) (hp : opPrefix h = m.transferPrefix)
    (hd : decodeTransfer lay m h s = .instr i) : ReadsBack lay m h s i := by
  have hlt := (opRest h).isLt
  have rows : (opRest h).toNat = 0 ∨ (opRest h).toNat = 1 ∨ (2 ≤ (opRest h).toNat ∧ (opRest h).toNat ≤ 7) ∨
      ((opRest h).toNat = 8 ∨ (opRest h).toNat = 9) ∨ (opRest h).toNat = 10 ∨ (opRest h).toNat = 11 ∨
      (opRest h).toNat = 12 ∨ 13 ≤ (opRest h).toNat := by omega
  rcases rows with hr | hr | ⟨hlo, hhi⟩ | hr | hr | hr | hr | hr
  · exact readsBack_of_esl_or_jms hl hm hp (eq_ofNat_of_toNat hr) hd
  · exact readsBack_of_esr hl hp (eq_ofNat_of_toNat hr) hd
  · exact readsBack_of_multiple hm hp hlo hhi hd
  · exact readsBack_of_conditional hm hp hr hd
  · exact readsBack_of_lbxh_or_jxh_or_supplementary hm hp (eq_ofNat_of_toNat hr) hd
  · exact readsBack_of_lbxle_or_jxle hm hp (eq_ofNat_of_toNat hr) hd
  · exact readsBack_of_lbrs hm hp (eq_ofNat_of_toNat hr) hd
  · rw [decodeTransfer] at hd
    interval_cases (opRest h).toNat <;> cases hd

end Transfer

/-! ### The rows of the 16-bit instructions -/

section Short
variable {lay : EsLayout} {m : Mode} {h s : Half} {i : Instr}

/-- Rows 1 to 4 of R98. -/
theorem decodeOperate_encodesTo (hm : m ≠ .compact) (hl : m ≠ .localMode) (hp : opPrefix h = 0b001#3)
    (hd : decodeOperate h = .instr i) : EncodesTo lay m i [h] := by
  simp only [decodeOperate] at hd
  split at hd
  case h_1 op hop =>
    rw [← encodeShift_fields hp hop]
    split at hd
    case isTrue hw => rw [hw]; exact decodeNarrowShift_encodesTo hm hl hd
    case isFalse hw =>
      cases hd
      rw [Bool.eq_false_of_not_eq_true hw]
      exact longShiftOf_encodesTo hm hl op _ _
  case h_2 hop =>
    split at hd
    case isTrue => cases hd
    case isFalse hw =>
      rw [← encodeSingle_fields hp (rest_of_no_shift _ hop (Bool.eq_false_of_not_eq_true hw))]
      exact decodeSingle_encodesTo hm hl hd

/-- Rows 5 and 6 of R98. -/
theorem decodeBranch_encodesTo (hp : opPrefix h = 0b100#3) (hd : decodeBranch h = .instr i) :
    EncodesTo lay .normal i [h] := by
  simp only [decodeBranch] at hd
  split at hd
  case isFalse => cases hd
  case isTrue h0 =>
    split at hd
    case h_1 => cases hd
    case h_2 c hc =>
      rw [← encodeBranch_fields hp h0 hc]
      split at hd
      case isTrue hz => cases hd; rw [hz]; exact returnOf_encodesTo c
      case isFalse hz => cases hd; exact branchOf_encodesTo c hz

/-- Row 7 of R98. -/
theorem decodeFunction_encodesTo (hp : opPrefix h = 0b101#3) (hd : decodeFunction h = .instr i) :
    EncodesTo lay .normal i [h] := by
  unfold decodeFunction at hd
  split at hd
  case isFalse => cases hd
  case isTrue h0 =>
    split at hd
    case h_1 => cases hd
    case h_2 fn hf =>
      rw [← encodeFunction_fields hp h0 hf]
      exact functionOf_encodesTo hd

theorem needsSecond_of_ne_transferPrefix (hp : opPrefix h ≠ m.transferPrefix) : needsSecond m h = false := by
  simp [needsSecond, hp]

/-- Whatever the decoder reads as an instruction, the encoder gives back. -/
theorem readsBack_of_decode (hl : lay.valid = true) (hd : decode lay m h s = .instr i) : ReadsBack lay m h s i := by
  unfold decode at hd
  split at hd
  case isTrue => cases hd
  case isFalse hm =>
    split at hd
    case isTrue hp => exact readsBack_of_decodeTransfer hl hm hp hd
    case isFalse hp =>
      apply readsBack_of_short (needsSecond_of_ne_transferPrefix hp)
      split at hd
      case isTrue hc =>
        obtain ⟨hop, hlocal⟩ := hc
        exact decodeOperate_encodesTo hm hlocal hop hd
      case isFalse =>
        split at hd
        case isTrue hc =>
          obtain ⟨hop, rfl⟩ := hc
          exact decodeBranch_encodesTo hop hd
        case isFalse =>
          split at hd
          case isTrue hc =>
            obtain ⟨hop, rfl⟩ := hc
            exact decodeFunction_encodesTo hop hd
          case isFalse => cases hd

end Short

/-! ### The statement -/

theorem length_longHalves (lay : EsLayout) (h s : Half) : (longHalves lay h s).length = 2 := by
  simp only [longHalves]
  split_ifs <;> rfl

theorem encodes_to_its_length (i : Instr) : Laws.EncodesToItsLength.Statement i := by
  cases i <;> exact fun _ _ => rfl

/-- Settles O2: each row gives back what it reads, and the number of halfwords given back tells the length. -/
theorem decodedHalfwordsEncodeBack : Obligations.DecodedHalfwordsEncodeBack := by
  intro lay m h s i hl hd
  obtain ⟨hwf, henc⟩ := readsBack_of_decode hl hd
  have hlen := encodes_to_its_length i lay m
  rw [henc] at hlen
  refine ⟨hwf, ?_⟩
  cases hn : needsSecond m h
  · have h2 : i.length = 2 := by simpa [hn] using hlen.symm
    exact ⟨by simp [h2], by simpa [hn, h2] using henc⟩
  · have h4 : i.length = 4 := by simpa [hn, length_longHalves] using hlen.symm
    exact ⟨by simp [h4], by simpa [hn, h4, longHalves] using henc⟩

end Sys2Proof.Reencoding
end

section
/-! SUPPORT. The single-operand instructions on one word (45_single_operand.md): what CLR and INV leave in the
register, with no flag stated, and the halfword each is encoded as. -/

namespace Sys2Proof.SingleOperand

open Sys2Proof.Machine

/-- The last octal digit of a first halfword, put into the halfword that has zero there. -/
theorem firstHalf_eq_or_digit0 (p : BitVec 3) (rest : BitVec 4) (f2 f1 f0 : BitVec 3) :
    firstHalf p rest f2 f1 f0 = firstHalf p rest f2 f1 0#3 ||| f0.setWidth 16 := by
  apply BitVec.eq_of_getLsbD_eq
  intro j hj
  simp only [firstHalf, BitVec.getLsbD_or, BitVec.getLsbD_append, BitVec.getLsbD_setWidth]
  by_cases hdigit : j < 3
  · simp [hdigit, hj]
  · simp [hdigit, BitVec.getLsbD_of_ge f0 j (by omega)]

/-- CLR and INV end alike: `x[r]` has its new value, every flag is as `FLAGS_UNSTATED` says, and nothing else has
changed (R302). -/
theorem replaceWord_spec (r : RegNum) (v : Word) (s : State) (hpc : s.pc.toNat + 2 < s.addrLimit) :
    ∃ t, outcomeOf (replaceWord r v s) = .next t ∧
      t = { s with x := s.x.write r v, sw := t.sw, draws := t.draws, pc := s.pc + 2 } ∧
      FlagsAfter s t none none none := by
  obtain ⟨t, hrun, hframe, hflags, hx⟩ := finish_integer (u := s.setX r v) (c := none) (v := none) (r := none) rfl hpc
  rw [hx, State.setX_x] at hframe
  exact ⟨t, outcomeOf_next hrun, hframe, hflags⟩

theorem execClr_spec (r : RegNum) (s : State) (hpc : s.pc.toNat + 2 < s.addrLimit) :
    ∃ t, exec (.clr r) s = .next t ∧
      t = { s with x := s.x.write r 0, sw := t.sw, draws := t.draws, pc := s.pc + 2 } ∧
      FlagsAfter s t none none none :=
  replaceWord_spec r 0 s hpc

/-- R308 inverts every bit; the exclusive or with `0xFFFFFFFF` is the same word. -/
theorem execInv_spec (r : RegNum) (s : State) (hpc : s.pc.toNat + 2 < s.addrLimit) :
    ∃ t, exec (.inv r) s = .next t ∧
      t = { s with x := s.x.write r (s.x.read r ^^^ 0xFFFFFFFF#32), sw := t.sw, draws := t.draws, pc := s.pc + 2 } ∧
      FlagsAfter s t none none none := by
  have hinv : ~~~(s.x.read r) = s.x.read r ^^^ 0xFFFFFFFF#32 := BitVec.xor_allOnes.symm
  rw [← hinv]
  exact replaceWord_spec r (~~~(s.x.read r)) s hpc

/-- R304: CLR is `02220r`. -/
theorem encode_clr (lay : EsLayout) (m : Mode) (r : RegNum) :
    encode lay m (.clr r) = [0o022200#16 ||| r.setWidth 16] :=
  congrArg (fun h => [h]) (firstHalf_eq_or_digit0 0b001#3 0b0010#4 2#3 0#3 r)

/-- R308: INV is `02222r`. -/
theorem encode_inv (lay : EsLayout) (m : Mode) (r : RegNum) :
    encode lay m (.inv r) = [0o022220#16 ||| r.setWidth 16] :=
  congrArg (fun h => [h]) (firstHalf_eq_or_digit0 0b001#3 0b0010#4 2#3 2#3 r)

/-- Settles O42: both replace one word with no flag stated, and each encoding holds `r` in its last digit. -/
theorem clearAndInvert : Obligations.ClearAndInvert := by
  constructor
  · intro r s hpc
    obtain ⟨t, hexec, hframe, hflags⟩ := execClr_spec r s hpc
    exact ⟨t, hexec, hframe, hflags, encode_clr _ _ r⟩
  · intro r s hpc
    obtain ⟨t, hexec, hframe, hflags⟩ := execInv_spec r s hpc
    exact ⟨t, hexec, hframe, hflags, encode_inv _ _ r⟩

end Sys2Proof.SingleOperand
end

section
/-! SUPPORT. SGNQ (46_math_functions.md R390): the image it leaves and the sign it states, and the halfword it is
encoded as. -/

namespace Sys2Proof.QuadSign

open Sys2Proof.Machine

/-- The middle octal digit of a first halfword, put into the halfword that has zero there. -/
theorem firstHalf_eq_or_digit1 (p : BitVec 3) (rest : BitVec 4) (f2 f1 f0 : BitVec 3) :
    firstHalf p rest f2 f1 f0 = firstHalf p rest f2 0#3 f0 ||| (f1.setWidth 16 <<< 3) := by
  apply BitVec.eq_of_getLsbD_eq
  intro j hj
  simp only [firstHalf, BitVec.getLsbD_or, BitVec.getLsbD_append, BitVec.getLsbD_shiftLeft, BitVec.getLsbD_setWidth]
  by_cases hbelow : j < 3
  · simp [hbelow]
  · by_cases hdigit : j - 3 < 3
    · simp [hbelow, hdigit, hj, show j - 3 < 16 by omega]
    · simp [hbelow, hdigit, BitVec.getLsbD_of_ge f1 (j - 3) (by omega)]

/-- R390: SGNQ is `1366r0`. -/
theorem encode_sgnq (lay : EsLayout) (m : Mode) (r : RegNum) :
    encode lay m (.sgnq r) = [0o136600#16 ||| (r.setWidth 16 <<< 3)] :=
  congrArg (fun h => [h]) (firstHalf_eq_or_digit1 0b101#3 0b1110#4 6#3 r 0#3)

/-- The sign stated is that of the result (R322), which is the argument's: the image of a sign has that sign. -/
theorem execSgnq_spec (r : RegNum) (s : State) (hpc : s.pc.toNat + 2 < s.addrLimit) :
    ∃ t, exec (.sgnq r) s = .next t ∧
      t = { s with
        f := s.f.write r (qOfSign (fSign .q (s.f.read r)))
        sw := t.sw
        draws := t.draws
        pc := s.pc + 2 } ∧
      FlagsAfter s t none none (some (fSign .q (s.f.read r))) := by
  obtain ⟨t, hexec, hframe, hflags, -⟩ := applyFunction_spec .q .sgn r s hpc
  have hsign : fSign .q (fpFunc .q .sgn (s.f.read r)) = fSign .q (s.f.read r) := fSign_qOfSign _
  rw [hsign] at hflags
  exact ⟨t, hexec, hframe, hflags⟩

/-- Settles O48: the constants have their own signs, and by the argument's sign SGNQ leaves one of them. -/
theorem signOfAQuad : Obligations.SignOfAQuad := by
  obtain ⟨hzero, hone, hminus⟩ := fSign_constants
  refine ⟨hzero, hone, hminus, ?_⟩
  intro r s y hpc hy
  have himage : y = qOfSign (fSign .q (s.f.read r)) := by
    rw [hy]
    cases fSign .q (s.f.read r) <;> rfl
  obtain ⟨t, hexec, hframe, hflags⟩ := execSgnq_spec r s hpc
  rw [← himage] at hframe
  exact ⟨t, hexec, hframe, hflags, encode_sgnq _ _ r⟩

end Sys2Proof.QuadSign
end

section
/-! SUPPORT. The instructions by groups: those that differ only in a condition, a shift operation or a function are
one group, as in the decoder's tables, and each group has one meaning. A proof over every instruction is a proof
over these groups. -/

namespace Sys2Proof.Groups

open Sys2Proof.Machine

/-- Every instruction, the alike ones together (see `grouped`). -/
inductive Grouped : Instr → Prop where
  | lmu (r1 r2 rB : RegNum) (addr : Half) : Grouped (.lmu r1 r2 rB addr)
  | stmu (r1 r2 rB : RegNum) (addr : Half) : Grouped (.stmu r1 r2 rB addr)
  | lmubr (r1 r2 rB : RegNum) (addr : Half) : Grouped (.lmubr r1 r2 rB addr)
  | stmubr (r1 r2 rB : RegNum) (addr : Half) : Grouped (.stmubr r1 r2 rB addr)
  | lmuq (r1 r2 rB : RegNum) (addr : Half) : Grouped (.lmuq r1 r2 rB addr)
  | stmuq (r1 r2 rB : RegNum) (addr : Half) : Grouped (.stmuq r1 r2 rB addr)
  | slbr (r rB : RegNum) (addr : Half) : Grouped (.slbr r rB addr)
  | sstbr (r rB : RegNum) (addr : Half) : Grouped (.sstbr r rB addr)
  | slsb (r rB : RegNum) (addr : Half) : Grouped (.slsb r rB addr)
  | sssb (r rB : RegNum) (addr : Half) : Grouped (.sssb r rB addr)
  | slpsb (r rB : RegNum) (addr : Half) : Grouped (.slpsb r rB addr)
  | sspsb (r rB : RegNum) (addr : Half) : Grouped (.sspsb r rB addr)
  | slasb (r rB : RegNum) (addr : Half) : Grouped (.slasb r rB addr)
  | ssasb (r rB : RegNum) (addr : Half) : Grouped (.ssasb r rB addr)
  | lmuPop (r1 r2 : RegNum) : Grouped (.lmuPop r1 r2)
  | stmuPush (r1 r2 : RegNum) : Grouped (.stmuPush r1 r2)
  | lmubrPop (r1 r2 : RegNum) : Grouped (.lmubrPop r1 r2)
  | stmubrPush (r1 r2 : RegNum) : Grouped (.stmubrPush r1 r2)
  | lmuqPop (r1 r2 : RegNum) : Grouped (.lmuqPop r1 r2)
  | stmuqPush (r1 r2 : RegNum) : Grouped (.stmuqPush r1 r2)
  | jms (rR rX rB : RegNum) (addr : Half) : Grouped (.jms rR rX rB addr)
  | lbxh (cR lR : RegNum) (disp : Half) : Grouped (.lbxh cR lR disp)
  | lbxle (cR lR : RegNum) (disp : Half) : Grouped (.lbxle cR lR disp)
  | lbrs (rR : RegNum) (disp : Half) : Grouped (.lbrs rR disp)
  | jxh (cR lR rB : RegNum) (addr : Half) : Grouped (.jxh cR lR rB addr)
  | jxle (cR lR rB : RegNum) (addr : Half) : Grouped (.jxle cR lR rB addr)
  | esl (rD rS : RegNum) (conn : BitVec 4) (n : BitVec 6) : Grouped (.esl rD rS conn n)
  | esr (rD rS : RegNum) (conn : BitVec 4) (n : BitVec 6) : Grouped (.esr rD rS conn n)
  | clr (r : RegNum) : Grouped (.clr r)
  | clrl (r : RegNum) : Grouped (.clrl r)
  | abs (r : RegNum) : Grouped (.abs r)
  | absl (r : RegNum) : Grouped (.absl r)
  | inv (r : RegNum) : Grouped (.inv r)
  | invl (r : RegNum) : Grouped (.invl r)
  | neg (r : RegNum) : Grouped (.neg r)
  | negl (r : RegNum) : Grouped (.negl r)
  | nb (rD rS : RegNum) : Grouped (.nb rD rS)
  | nh (rD rS : RegNum) : Grouped (.nh rD rS)
  | n (rD rS : RegNum) : Grouped (.n rD rS)
  | nl (rD rS : RegNum) : Grouped (.nl rD rS)
  | jump (c : Cond) (rX rB : RegNum) (addr : Half) : Grouped (jumpOf c rX rB addr)
  | savedJump {c : Cond} {rX rB : RegNum} {addr : Half} {i : Instr} (h : savedJumpOf c rX rB addr = .instr i) : Grouped i
  | longBranch (c : Cond) (disp : Half) : Grouped (longBranchOf c disp)
  | branch (c : Cond) (disp : BitVec 6) : Grouped (branchOf c disp)
  | ret (c : Cond) : Grouped (returnOf c)
  | byteShift (op : ShiftOp) (r : RegNum) (n : BitVec 3) : Grouped (byteShiftOf op r n)
  | halfwordShift (op : ShiftOp) (r : RegNum) (n : BitVec 4) : Grouped (halfwordShiftOf op r n)
  | wordShift (op : ShiftOp) (r : RegNum) (n : BitVec 5) : Grouped (wordShiftOf op r n)
  | longShift (op : ShiftOp) (r : RegNum) (n : BitVec 6) : Grouped (longShiftOf op r n)
  | mathFunction {ty : FpType} {fn : FpFn} {r : RegNum} {i : Instr} (h : functionOf ty fn r = .instr i) : Grouped i

theorem grouped (i : Instr) : Grouped i := by
  cases i with
  | jl rX rB addr => exact .jump .low rX rB addr
  | je rX rB addr => exact .jump .equal rX rB addr
  | jle rX rB addr => exact .jump .lowOrEqual rX rB addr
  | jh rX rB addr => exact .jump .high rX rB addr
  | jne rX rB addr => exact .jump .notEqual rX rB addr
  | jhe rX rB addr => exact .jump .highOrEqual rX rB addr
  | jnv rX rB addr => exact .jump .noOverflow rX rB addr
  | jv rX rB addr => exact .jump .overflow rX rB addr
  | jc rX rB addr => exact .jump .carry rX rB addr
  | jnc rX rB addr => exact .jump .noCarry rX rB addr
  | jmp rX rB addr => exact .jump .always rX rB addr
  | jvl rX rB addr => exact .savedJump (c := .low) rfl
  | jve rX rB addr => exact .savedJump (c := .equal) rfl
  | jvle rX rB addr => exact .savedJump (c := .lowOrEqual) rfl
  | jvh rX rB addr => exact .savedJump (c := .high) rfl
  | jvne rX rB addr => exact .savedJump (c := .notEqual) rfl
  | jvhe rX rB addr => exact .savedJump (c := .highOrEqual) rfl
  | jvnv rX rB addr => exact .savedJump (c := .noOverflow) rfl
  | jvv rX rB addr => exact .savedJump (c := .overflow) rfl
  | jvc rX rB addr => exact .savedJump (c := .carry) rfl
  | jvnc rX rB addr => exact .savedJump (c := .noCarry) rfl
  | lbl disp => exact .longBranch .low disp
  | lbe disp => exact .longBranch .equal disp
  | lble disp => exact .longBranch .lowOrEqual disp
  | lbh disp => exact .longBranch .high disp
  | lbne disp => exact .longBranch .notEqual disp
  | lbhe disp => exact .longBranch .highOrEqual disp
  | lbnv disp => exact .longBranch .noOverflow disp
  | lbv disp => exact .longBranch .overflow disp
  | lbc disp => exact .longBranch .carry disp
  | lbnc disp => exact .longBranch .noCarry disp
  | lbra disp => exact .longBranch .always disp
  | bl disp => exact .branch .low disp
  | be disp => exact .branch .equal disp
  | ble disp => exact .branch .lowOrEqual disp
  | bh disp => exact .branch .high disp
  | bne disp => exact .branch .notEqual disp
  | bhe disp => exact .branch .highOrEqual disp
  | bnv disp => exact .branch .noOverflow disp
  | bv disp => exact .branch .overflow disp
  | bc disp => exact .branch .carry disp
  | bnc disp => exact .branch .noCarry disp
  | bra disp => exact .branch .always disp
  | rl => exact .ret .low
  | re => exact .ret .equal
  | rle => exact .ret .lowOrEqual
  | rh => exact .ret .high
  | rne => exact .ret .notEqual
  | rhe => exact .ret .highOrEqual
  | rnv => exact .ret .noOverflow
  | rv => exact .ret .overflow
  | rc => exact .ret .carry
  | rnc => exact .ret .noCarry
  | rss => exact .ret .always
  | shlb r n => exact .byteShift .shl r n
  | shrb r n => exact .byteShift .shr r n
  | asrb r n => exact .byteShift .asr r n
  | rolb r n => exact .byteShift .rol r n
  | rorb r n => exact .byteShift .ror r n
  | rlcb r n => exact .byteShift .rlc r n
  | rrcb r n => exact .byteShift .rrc r n
  | shlh r n => exact .halfwordShift .shl r n
  | shrh r n => exact .halfwordShift .shr r n
  | asrh r n => exact .halfwordShift .asr r n
  | rolh r n => exact .halfwordShift .rol r n
  | rorh r n => exact .halfwordShift .ror r n
  | rlch r n => exact .halfwordShift .rlc r n
  | rrch r n => exact .halfwordShift .rrc r n
  | shl r n => exact .wordShift .shl r n
  | shr r n => exact .wordShift .shr r n
  | asr r n => exact .wordShift .asr r n
  | rol r n => exact .wordShift .rol r n
  | ror r n => exact .wordShift .ror r n
  | rlc r n => exact .wordShift .rlc r n
  | rrc r n => exact .wordShift .rrc r n
  | shll r n => exact .longShift .shl r n
  | shrl r n => exact .longShift .shr r n
  | asrl r n => exact .longShift .asr r n
  | roll r n => exact .longShift .rol r n
  | rorl r n => exact .longShift .ror r n
  | rlcl r n => exact .longShift .rlc r n
  | rrcl r n => exact .longShift .rrc r n
  | sinm r => exact .mathFunction (ty := .m) (fn := .sin) rfl
  | sin r => exact .mathFunction (ty := .f) (fn := .sin) rfl
  | sind r => exact .mathFunction (ty := .d) (fn := .sin) rfl
  | sinq r => exact .mathFunction (ty := .q) (fn := .sin) rfl
  | cosm r => exact .mathFunction (ty := .m) (fn := .cos) rfl
  | cos r => exact .mathFunction (ty := .f) (fn := .cos) rfl
  | cosd r => exact .mathFunction (ty := .d) (fn := .cos) rfl
  | cosq r => exact .mathFunction (ty := .q) (fn := .cos) rfl
  | tanm r => exact .mathFunction (ty := .m) (fn := .tan) rfl
  | tan r => exact .mathFunction (ty := .f) (fn := .tan) rfl
  | tand r => exact .mathFunction (ty := .d) (fn := .tan) rfl
  | tanq r => exact .mathFunction (ty := .q) (fn := .tan) rfl
  | asnm r => exact .mathFunction (ty := .m) (fn := .asn) rfl
  | asn r => exact .mathFunction (ty := .f) (fn := .asn) rfl
  | asnd r => exact .mathFunction (ty := .d) (fn := .asn) rfl
  | asnq r => exact .mathFunction (ty := .q) (fn := .asn) rfl
  | acsm r => exact .mathFunction (ty := .m) (fn := .acs) rfl
  | acs r => exact .mathFunction (ty := .f) (fn := .acs) rfl
  | acsd r => exact .mathFunction (ty := .d) (fn := .acs) rfl
  | acsq r => exact .mathFunction (ty := .q) (fn := .acs) rfl
  | atnm r => exact .mathFunction (ty := .m) (fn := .atn) rfl
  | atn r => exact .mathFunction (ty := .f) (fn := .atn) rfl
  | atnd r => exact .mathFunction (ty := .d) (fn := .atn) rfl
  | atnq r => exact .mathFunction (ty := .q) (fn := .atn) rfl
  | sinhm r => exact .mathFunction (ty := .m) (fn := .sinh) rfl
  | sinh r => exact .mathFunction (ty := .f) (fn := .sinh) rfl
  | sinhd r => exact .mathFunction (ty := .d) (fn := .sinh) rfl
  | sinhq r => exact .mathFunction (ty := .q) (fn := .sinh) rfl
  | coshm r => exact .mathFunction (ty := .m) (fn := .cosh) rfl
  | cosh r => exact .mathFunction (ty := .f) (fn := .cosh) rfl
  | coshd r => exact .mathFunction (ty := .d) (fn := .cosh) rfl
  | coshq r => exact .mathFunction (ty := .q) (fn := .cosh) rfl
  | tanhm r => exact .mathFunction (ty := .m) (fn := .tanh) rfl
  | tanh r => exact .mathFunction (ty := .f) (fn := .tanh) rfl
  | tanhd r => exact .mathFunction (ty := .d) (fn := .tanh) rfl
  | tanhq r => exact .mathFunction (ty := .q) (fn := .tanh) rfl
  | asnhm r => exact .mathFunction (ty := .m) (fn := .asnh) rfl
  | asnh r => exact .mathFunction (ty := .f) (fn := .asnh) rfl
  | asnhd r => exact .mathFunction (ty := .d) (fn := .asnh) rfl
  | asnhq r => exact .mathFunction (ty := .q) (fn := .asnh) rfl
  | acshm r => exact .mathFunction (ty := .m) (fn := .acsh) rfl
  | acsh r => exact .mathFunction (ty := .f) (fn := .acsh) rfl
  | acshd r => exact .mathFunction (ty := .d) (fn := .acsh) rfl
  | acshq r => exact .mathFunction (ty := .q) (fn := .acsh) rfl
  | atnhm r => exact .mathFunction (ty := .m) (fn := .atnh) rfl
  | atnh r => exact .mathFunction (ty := .f) (fn := .atnh) rfl
  | atnhd r => exact .mathFunction (ty := .d) (fn := .atnh) rfl
  | atnhq r => exact .mathFunction (ty := .q) (fn := .atnh) rfl
  | sqrm r => exact .mathFunction (ty := .m) (fn := .sqr) rfl
  | sqr r => exact .mathFunction (ty := .f) (fn := .sqr) rfl
  | sqrd r => exact .mathFunction (ty := .d) (fn := .sqr) rfl
  | sqrq r => exact .mathFunction (ty := .q) (fn := .sqr) rfl
  | qbrm r => exact .mathFunction (ty := .m) (fn := .qbr) rfl
  | qbr r => exact .mathFunction (ty := .f) (fn := .qbr) rfl
  | qbrd r => exact .mathFunction (ty := .d) (fn := .qbr) rfl
  | qbrq r => exact .mathFunction (ty := .q) (fn := .qbr) rfl
  | logm r => exact .mathFunction (ty := .m) (fn := .log) rfl
  | log r => exact .mathFunction (ty := .f) (fn := .log) rfl
  | logd r => exact .mathFunction (ty := .d) (fn := .log) rfl
  | logq r => exact .mathFunction (ty := .q) (fn := .log) rfl
  | expm r => exact .mathFunction (ty := .m) (fn := .exp) rfl
  | exp r => exact .mathFunction (ty := .f) (fn := .exp) rfl
  | expd r => exact .mathFunction (ty := .d) (fn := .exp) rfl
  | expq r => exact .mathFunction (ty := .q) (fn := .exp) rfl
  | clrq r => exact .mathFunction (ty := .q) (fn := .clr) rfl
  | absq r => exact .mathFunction (ty := .q) (fn := .abs) rfl
  | sgnq r => exact .mathFunction (ty := .q) (fn := .sgn) rfl
  | negq r => exact .mathFunction (ty := .q) (fn := .neg) rfl
  | _ => constructor

/-! ### The meaning of each group -/

theorem exec_jumpOf (c : Cond) (rX rB : RegNum) (addr : Half) (s : State) :
    exec (jumpOf c rX rB addr) s = outcomeOf (condJump c s.sw rX rB addr s) := by
  cases c <;> rfl

theorem exec_savedJumpOf {c : Cond} {rX rB : RegNum} {addr : Half} {i : Instr}
    (h : savedJumpOf c rX rB addr = .instr i) (s : State) :
    exec i s = outcomeOf (condJump c s.ssw rX rB addr s) := by
  cases c <;> cases h <;> rfl

theorem exec_longBranchOf (c : Cond) (disp : Half) (s : State) :
    exec (longBranchOf c disp) s = outcomeOf (longBranch c disp s) := by
  cases c <;> rfl

theorem exec_branchOf (c : Cond) (disp : BitVec 6) (s : State) :
    exec (branchOf c disp) s = outcomeOf (branch c disp s) := by
  cases c <;> rfl

theorem exec_returnOf (c : Cond) (s : State) : exec (returnOf c) s = outcomeOf (returnIf c s) := by
  cases c <;> rfl

theorem exec_byteShiftOf (op : ShiftOp) (r : RegNum) (n : BitVec 3) (s : State) :
    exec (byteShiftOf op r n) s = outcomeOf (shiftNarrow op 8 r n.toNat s) := by
  cases op <;> rfl

theorem exec_halfwordShiftOf (op : ShiftOp) (r : RegNum) (n : BitVec 4) (s : State) :
    exec (halfwordShiftOf op r n) s = outcomeOf (shiftNarrow op 16 r n.toNat s) := by
  cases op <;> rfl

theorem exec_wordShiftOf (op : ShiftOp) (r : RegNum) (n : BitVec 5) (s : State) :
    exec (wordShiftOf op r n) s = outcomeOf (shiftWord op r n.toNat s) := by
  cases op <;> rfl

theorem exec_longShiftOf (op : ShiftOp) (r : RegNum) (n : BitVec 6) (s : State) :
    exec (longShiftOf op r n) s = outcomeOf (shiftLong (longShiftOf op r n) op r n.toNat s) := by
  cases op <;> rfl

/-- CLR, ABS, SGN and NEG are instructions of type Q only (46_math_functions.md R323). -/
theorem exec_functionOf {ty : FpType} {fn : FpFn} {r : RegNum} {i : Instr} (h : functionOf ty fn r = .instr i)
    (s : State) : exec i s = outcomeOf (applyFunction ty fn r s) := by
  cases fn
  case clr | abs | sgn | neg =>
    simp only [functionOf] at h
    split at h
    case isTrue hq => cases h; subst hq; rfl
    case isFalse => cases h
  all_goals cases ty <;> cases h <;> rfl

end Sys2Proof.Groups
end

section
/-! SUPPORT. What the encoder makes of an instruction, the decoder reads back: each group of instructions by the row
of 30_encoding.md R98 that its format fits. -/

namespace Sys2Proof.RoundTrip

open Sys2Proof.Machine Sys2Proof.Reencoding Sys2Proof.Groups

/-- From the bytes of the halfwords `ws` the byte decoder reads `i`, whatever follows. -/
def ReadAs (lay : EsLayout) (m : Mode) (i : Instr) (ws : List Half) : Prop :=
  ∀ rest : List Byte, decodeBytes lay m (ws.flatMap (fun h => [h.highByte, h.lowByte]) ++ rest) = some (.instr i, rest)

/-! ### What being well formed says -/

theorem wellFormed_iff {m : Mode} {i : Instr} :
    i.wellFormed m = true ↔ m.hasGroup i.availability = true ∧ i.operandsOk = true := by
  simp [Instr.wellFormed]

theorem ne_compact_of_hasGroup {m : Mode} {a : Availability} (h : m.hasGroup a = true) : m ≠ .compact := by
  rintro rfl
  cases h

theorem ne_localMode_of_operate {m : Mode} (h : m.hasGroup .operate = true) : m ≠ .localMode := by
  rintro rfl
  cases h

theorem eq_normal_of_normalOnly {m : Mode} (h : m.hasGroup .normalOnly = true) : m = .normal := by
  cases m <;> trivial

theorem evenAddress_iff {rB : RegNum} {addr : Half} :
    evenAddress rB addr = true ↔ rB ≠ 0#3 ∧ addr.getLsbD 0 = false := by
  simp [evenAddress]

theorem wordAddress_iff {rB : RegNum} {addr : Half} :
    wordAddress rB addr = true ↔ rB ≠ 0#3 ∧ addr.getLsbD 0 = false ∧ addr[1] = false := by
  simp [wordAddress, and_assoc]

theorem addressHalf_getElem_one (addr : Half) (e : Bool) : (addressHalf addr e)[1] = addr[1] :=
  addressHalf_bit1 addr e

/-! ### Codes, and what they are the codes of -/

/-- The opcode rest and digit `F2` of a condition, as the jumps and long branches hold it (R85, R88). -/
theorem condition_fields (c : Cond) : ∃ (rest : BitVec 4) (f2 : BitVec 3), (rest.toNat = 8 ∨ rest.toNat = 9) ∧
    condOfCode (rest.extractLsb' 0 1 ++ f2) = some c :=
  ⟨0b100#3 ++ c.code.extractLsb' 3 1, c.code.extractLsb' 0 3, by cases c <;> decide⟩

theorem condOfCode_code (c : Cond) : condOfCode c.code = some c := by cases c <;> rfl

theorem shiftOpOfCode_fields (narrow : Bool) (op : ShiftOp) :
    shiftOpOfCode ((BitVec.ofBool narrow ++ op.code).extractLsb' 0 3) = some op ∧
      (BitVec.ofBool narrow ++ op.code).getLsbD 3 = narrow := by
  cases narrow <;> cases op <;> decide

theorem fpTypeOfCode_fields (ty : FpType) (k : BitVec 2) : fpTypeOfCode ((ty.code ++ k).extractLsb' 2 2) = ty := by
  rw [BitVec.extractLsb'_append_eq_left]
  cases ty <;> rfl

theorem fpFnOfCode_fields (ty : BitVec 2) (fn : FpFn) :
    fpFnOfCode ((ty ++ fn.code.extractLsb' 3 2).extractLsb' 0 2 ++ fn.code.extractLsb' 0 3) = some fn := by
  rw [BitVec.extractLsb'_append_eq_right]
  cases fn <;> rfl

theorem digits_append : ∀ cc : BitVec 6, cc.extractLsb' 3 3 ++ cc.extractLsb' 0 3 = cc := by decide

/-! ### One halfword or two -/

section Lengths
variable {lay : EsLayout} {m : Mode} {i : Instr}

theorem readAs_long {h s : Half} (hn : needsSecond m h = true) (hd : decode lay m h s = .instr i) :
    ReadAs lay m i [h, s] :=
  fun rest => by rw [decodeBytes_long rest hn, hd]

theorem readAs_short {h : Half} (hn : needsSecond m h = false) (hd : decode lay m h 0#16 = .instr i) :
    ReadAs lay m i [h] :=
  fun rest => by rw [decodeBytes_short rest hn, hd]

theorem decode_transferPrefix {h s : Half} (hm : m ≠ .compact) (hp : opPrefix h = m.transferPrefix) :
    decode lay m h s = decodeTransfer lay m h s := by
  simp [decode, hm, hp]

theorem decode_normal_transfer (rest : BitVec 4) (f2 f1 f0 : BitVec 3) (s : Half) :
    decode lay .normal (firstHalf 0b111#3 rest f2 f1 f0) s =
      decodeTransfer lay .normal (firstHalf 0b111#3 rest f2 f1 f0) s :=
  decode_transferPrefix (by decide) (opPrefix_firstHalf ..)

/-! ### The formats of the 32-bit instructions and the stack forms -/

/-- Format MR32: a base register that is not zero, under each opcode but 161 (R84, R86). -/
theorem readAs_mr32 {rest : BitVec 4} {f2 f1 rB : BitVec 3} {addr : Half} {e : Bool} (hm : m ≠ .compact) (hB : rB ≠ 0#3)
    (hr : rest.toNat ≠ 1) (hlt : rest.toNat < 12)
    (hd : decodeTransfer lay m (firstHalf m.transferPrefix rest f2 f1 rB) (addressHalf addr e) = .instr i) :
    ReadAs lay m i (encodeMr32 m rest f2 f1 rB addr e) := by
  apply readAs_long
  · simp only [needsSecond, opPrefix_firstHalf, opRest_firstHalf, digit0_firstHalf]
    interval_cases rest.toNat <;> simp_all
  · rw [decode_transferPrefix hm (opPrefix_firstHalf ..), hd]

/-- Format LB32 under the opcodes 170 to 174 (R88). -/
theorem readAs_lb32 {rest : BitVec 4} {f2 f1 : BitVec 3} {disp : Half} (hm : m ≠ .compact)
    (hlo : 8 ≤ rest.toNat) (hhi : rest.toNat ≤ 12)
    (hd : decodeTransfer lay m (firstHalf m.transferPrefix rest f2 f1 0#3) disp = .instr i) :
    ReadAs lay m i (encodeLb32 m rest f2 f1 disp) := by
  apply readAs_long
  · simp only [needsSecond, opPrefix_firstHalf, opRest_firstHalf, digit0_firstHalf]
    interval_cases rest.toNat <;> simp [hm]
  · rw [decode_transferPrefix hm (opPrefix_firstHalf ..), hd]

theorem readAs_jumpOf (hm : m ≠ .compact) (c : Cond) {rX rB : RegNum} {addr : Half}
    (ha : evenAddress rB addr = true) : ReadAs lay m (jumpOf c rX rB addr) (encodeJump m c false rX rB addr) := by
  obtain ⟨hB, heven⟩ := evenAddress_iff.1 ha
  obtain ⟨rest, f2, hr, hc⟩ := condition_fields c
  rw [encodeJump_eq_encodeMr32 hr hc]
  apply readAs_mr32 hm hB (by omega) (by omega)
  rw [decodeTransfer_condition (by simpa using hr) (by simpa using hc)]
  simp [hB, addressField_addressHalf _ heven]

theorem readAs_savedJumpOf (hm : m ≠ .compact) {c : Cond} {rX rB : RegNum} {addr : Half}
    (h : savedJumpOf c rX rB addr = .instr i) (ha : evenAddress rB addr = true) :
    ReadAs lay m i (encodeJump m c true rX rB addr) := by
  obtain ⟨hB, heven⟩ := evenAddress_iff.1 ha
  obtain ⟨rest, f2, hr, hc⟩ := condition_fields c
  rw [encodeJump_eq_encodeMr32 hr hc]
  apply readAs_mr32 hm hB (by omega) (by omega)
  rw [decodeTransfer_condition (by simpa using hr) (by simpa using hc)]
  simp [hB, addressField_addressHalf _ heven, h]

theorem readAs_longBranchOf (hm : m ≠ .compact) (c : Cond) (disp : Half) :
    ReadAs lay m (longBranchOf c disp) (encodeLongBranch m c disp) := by
  obtain ⟨rest, f2, hr, hc⟩ := condition_fields c
  rw [encodeLongBranch_eq_encodeLb32 hr hc]
  apply readAs_lb32 hm (by omega) (by omega)
  rw [decodeTransfer_condition (by simpa using hr) (by simpa using hc)]
  simp

/-- Opcodes 162 to 167 with a base register (row 11 of R98). -/
theorem readAs_multipleOf (hm : m ≠ .compact) {rest : BitVec 4} {r1 r2 rB : RegNum} {addr : Half}
    (hlo : 2 ≤ rest.toNat) (hhi : rest.toNat ≤ 7) (h : multipleOf rest r1 r2 rB addr = .instr i)
    (ha : wordAddress rB addr = true) : ReadAs lay m i (encodeMr32 m rest r1 r2 rB addr m.multipleBit) := by
  obtain ⟨hB, heven, hbit1⟩ := wordAddress_iff.1 ha
  apply readAs_mr32 hm hB (by omega) (by omega)
  rw [decodeTransfer_multiple (by simpa using hlo) (by simpa using hhi)]
  simp [hB, addressHalf_getElem_one, hbit1, addressField_addressHalf _ heven, h]

/-- Opcodes 162 to 167 with digit `F0` zero (row 10 of R98). -/
theorem readAs_stackOf {rest : BitVec 4} {r1 r2 : RegNum} (hlo : 2 ≤ rest.toNat) (hhi : rest.toNat ≤ 7)
    (h : stackOf rest r1 r2 = .instr i) : ReadAs lay .normal i (encodeStack rest r1 r2) := by
  apply readAs_short
  · simp only [needsSecond, opPrefix_firstHalf, opRest_firstHalf, digit0_firstHalf]
    interval_cases rest.toNat <;> rfl
  · rw [decode_normal_transfer, decodeTransfer_multiple (by simpa using hlo) (by simpa using hhi)]
    simp [h]

theorem readAs_supplementaryOf (hm : m ≠ .compact) (k : BitVec 3) {r rB : RegNum} {addr : Half}
    (ha : wordAddress rB addr = true) :
    ReadAs lay m (supplementaryOf k r rB addr) (encodeMr32 m 0b1010#4 k r rB addr true) := by
  obtain ⟨hB, heven, hbit1⟩ := wordAddress_iff.1 ha
  apply readAs_mr32 hm hB (by decide) (by decide)
  simp [decodeTransfer, hB, addressHalf_getElem_one, hbit1, addressField_addressHalf _ heven]

theorem readAs_jms (hm : m ≠ .compact) {rR rX rB : RegNum} {addr : Half} (ha : evenAddress rB addr = true) :
    ReadAs lay m (.jms rR rX rB addr) (encode lay m (.jms rR rX rB addr)) := by
  obtain ⟨hB, heven⟩ := evenAddress_iff.1 ha
  apply readAs_mr32 hm hB (by decide) (by decide)
  simp [decodeTransfer, hB, addressField_addressHalf _ heven]

theorem readAs_jxh (hm : m ≠ .compact) {cR lR rB : RegNum} {addr : Half} (ha : evenAddress rB addr = true) :
    ReadAs lay m (.jxh cR lR rB addr) (encode lay m (.jxh cR lR rB addr)) := by
  obtain ⟨hB, heven⟩ := evenAddress_iff.1 ha
  apply readAs_mr32 hm hB (by decide) (by decide)
  simp [decodeTransfer, hB, addressField_addressHalf _ heven]

theorem readAs_jxle (hm : m ≠ .compact) {cR lR rB : RegNum} {addr : Half} (ha : evenAddress rB addr = true) :
    ReadAs lay m (.jxle cR lR rB addr) (encode lay m (.jxle cR lR rB addr)) := by
  obtain ⟨hB, heven⟩ := evenAddress_iff.1 ha
  apply readAs_mr32 hm hB (by decide) (by decide)
  simp [decodeTransfer, hB, addressField_addressHalf _ heven]

theorem readAs_lbxh (hm : m ≠ .compact) (cR lR : RegNum) (disp : Half) :
    ReadAs lay m (.lbxh cR lR disp) (encode lay m (.lbxh cR lR disp)) :=
  readAs_lb32 hm (by decide) (by decide) (by simp [decodeTransfer])

theorem readAs_lbxle (hm : m ≠ .compact) (cR lR : RegNum) (disp : Half) :
    ReadAs lay m (.lbxle cR lR disp) (encode lay m (.lbxle cR lR disp)) :=
  readAs_lb32 hm (by decide) (by decide) (by simp [decodeTransfer])

theorem readAs_lbrs (hm : m ≠ .compact) (rR : RegNum) (disp : Half) :
    ReadAs lay m (.lbrs rR disp) (encode lay m (.lbrs rR disp)) :=
  readAs_lb32 hm (by decide) (by decide) (by simp [decodeTransfer])

/-- Format ES32 under any valid layout (R90, row 8 of R98). -/
theorem readAs_extensible (hl : lay.valid = true) (left : Bool) (rD rS : RegNum) (conn : BitVec 4) (n : BitVec 6) :
    ReadAs lay .normal (if left then .esl rD rS conn n else .esr rD rS conn n)
      (encodeExtensible lay (if left then 0#4 else 1#4) rD rS conn n) := by
  obtain ⟨p, q, s, henc, hdec⟩ :=
    decodeExtensible_encodeExtensible hl left (if left then 0#4 else 1#4) rD rS conn n
  rw [henc]
  apply readAs_long
  · cases left <;> simp [needsSecond, Mode.transferPrefix]
  · rw [decode_normal_transfer, ← hdec]
    cases left <;> simp [decodeTransfer]

/-! ### The formats of the 16-bit instructions -/

/-- Formats SH16, SO16 and NM16, of Normal and Simple Mode (R92 to R94). -/
theorem readAs_operate {rest : BitVec 4} {f2 f1 f0 : BitVec 3} (hg : m.hasGroup .operate = true)
    (hd : decodeOperate (firstHalf 0b001#3 rest f2 f1 f0) = .instr i) :
    ReadAs lay m i [firstHalf 0b001#3 rest f2 f1 f0] := by
  have hm := ne_compact_of_hasGroup hg
  have hl := ne_localMode_of_operate hg
  have hp : (0b001#3 : BitVec 3) ≠ m.transferPrefix := by cases m <;> decide
  apply readAs_short
  · exact needsSecond_of_ne_transferPrefix (by simpa using hp)
  · simp [decode, hm, hl, hp, hd]

theorem readAs_shift {narrow : Bool} {op : ShiftOp} {r : RegNum} {cc : BitVec 6} (hg : m.hasGroup .operate = true)
    (hd : (if narrow then decodeNarrowShift op r cc else .instr (longShiftOf op r cc)) = .instr i) :
    ReadAs lay m i (encodeShift narrow op r cc) := by
  obtain ⟨hop, hw⟩ := shiftOpOfCode_fields narrow op
  apply readAs_operate hg
  rw [← hd]
  simp only [decodeOperate, opRest_firstHalf, digit2_firstHalf, digit1_firstHalf, digit0_firstHalf, hop, hw,
    digits_append]

theorem readAs_byteShiftOf (hg : m.hasGroup .operate = true) (op : ShiftOp) (r : RegNum) (n : BitVec 3) :
    ReadAs lay m (byteShiftOf op r n) (encodeShift true op r (0b110#3 ++ n)) := by
  have hbits : ∀ n : BitVec 3, (0b110#3 ++ n).getLsbD 5 = true ∧ (0b110#3 ++ n).getLsbD 4 = true ∧
      (0b110#3 ++ n).getLsbD 3 = false := by decide
  obtain ⟨h5, h4, h3⟩ := hbits n
  apply readAs_shift hg
  simp only [decodeNarrowShift, h5, h4, h3, BitVec.extractLsb'_append_eq_right, ↓reduceIte, Bool.false_eq_true]

theorem readAs_halfwordShiftOf (hg : m.hasGroup .operate = true) (op : ShiftOp) (r : RegNum) (n : BitVec 4) :
    ReadAs lay m (halfwordShiftOf op r n) (encodeShift true op r (0b10#2 ++ n)) := by
  have hbits : ∀ n : BitVec 4, (0b10#2 ++ n).getLsbD 5 = true ∧ (0b10#2 ++ n).getLsbD 4 = false := by decide
  obtain ⟨h5, h4⟩ := hbits n
  apply readAs_shift hg
  simp only [decodeNarrowShift, h5, h4, BitVec.extractLsb'_append_eq_right, ↓reduceIte, Bool.false_eq_true]

theorem readAs_wordShiftOf (hg : m.hasGroup .operate = true) (op : ShiftOp) (r : RegNum) (n : BitVec 5) :
    ReadAs lay m (wordShiftOf op r n) (encodeShift true op r (0b0#1 ++ n)) := by
  have hbit : ∀ n : BitVec 5, (0b0#1 ++ n).getLsbD 5 = false := by decide
  apply readAs_shift hg
  simp only [decodeNarrowShift, hbit n, BitVec.extractLsb'_append_eq_right, ↓reduceIte, Bool.false_eq_true]

theorem readAs_longShiftOf (hg : m.hasGroup .operate = true) (op : ShiftOp) (r : RegNum) (n : BitVec 6) :
    ReadAs lay m (longShiftOf op r n) (encodeShift false op r n) :=
  readAs_shift hg rfl

/-- Opcode 022 (rows 3 and 4 of R98). -/
theorem readAs_single {f2 f1 f0 : BitVec 3} (hg : m.hasGroup .operate = true)
    (hd : decodeSingle f2 f1 f0 = .instr i) : ReadAs lay m i (encodeSingle f2 f1 f0) := by
  have hop : shiftOpOfCode ((0b0010#4).extractLsb' 0 3) = none := rfl
  have hw : (0b0010#4 : BitVec 4).getLsbD 3 = false := rfl
  apply readAs_operate hg
  simp only [decodeOperate, opRest_firstHalf, digit2_firstHalf, digit1_firstHalf, digit0_firstHalf, hop, hw, hd,
    Bool.false_eq_true, ↓reduceIte]

/-- Format BR16 (rows 5 and 6 of R98). -/
theorem readAs_branch {c : Cond} {disp : BitVec 6}
    (hd : (if disp = 0#6 then returnOf c else branchOf c disp) = i) : ReadAs lay .normal i (encodeBranch c disp) := by
  apply readAs_short
  · simp [needsSecond, Mode.transferPrefix]
  · simp only [decode, opPrefix_firstHalf, Mode.transferPrefix, decodeBranch, digit0_firstHalf, opRest_firstHalf,
      digit2_firstHalf, digit1_firstHalf, digits_append, condOfCode_code, ← hd]
    by_cases hz : disp = 0#6 <;> simp [hz]

/-- Format FN16 (row 7 of R98). -/
theorem readAs_functionOf {ty : FpType} {fn : FpFn} {r : RegNum} (h : functionOf ty fn r = .instr i) :
    ReadAs lay .normal i (encodeFunction ty fn r) := by
  apply readAs_short
  · simp [needsSecond, Mode.transferPrefix]
  · simp only [decode, opPrefix_firstHalf, Mode.transferPrefix, decodeFunction, digit0_firstHalf, opRest_firstHalf,
      digit2_firstHalf, digit1_firstHalf, fpTypeOfCode_fields, fpFnOfCode_fields]
    simpa using h

end Lengths

/-! ### Availability and encoding of each group -/

theorem jumpOf_encoding (lay : EsLayout) (m : Mode) (c : Cond) (rX rB : RegNum) (addr : Half) :
    (jumpOf c rX rB addr).availability = .transfer ∧ (jumpOf c rX rB addr).operandsOk = evenAddress rB addr ∧
      encode lay m (jumpOf c rX rB addr) = encodeJump m c false rX rB addr := by
  cases c <;> exact ⟨rfl, rfl, rfl⟩

theorem savedJumpOf_encoding (lay : EsLayout) (m : Mode) {c : Cond} {rX rB : RegNum} {addr : Half} {i : Instr}
    (h : savedJumpOf c rX rB addr = .instr i) : i.availability = .transfer ∧ i.operandsOk = evenAddress rB addr ∧
      encode lay m i = encodeJump m c true rX rB addr := by
  cases c <;> cases h <;> exact ⟨rfl, rfl, rfl⟩

theorem longBranchOf_encoding (lay : EsLayout) (m : Mode) (c : Cond) (disp : Half) :
    (longBranchOf c disp).availability = .transfer ∧ encode lay m (longBranchOf c disp) = encodeLongBranch m c disp := by
  cases c <;> exact ⟨rfl, rfl⟩

theorem branchOf_encoding (lay : EsLayout) (m : Mode) (c : Cond) (disp : BitVec 6) :
    (branchOf c disp).availability = .normalOnly ∧ (branchOf c disp).operandsOk = (disp != 0) ∧
      encode lay m (branchOf c disp) = encodeBranch c disp := by
  cases c <;> exact ⟨rfl, rfl, rfl⟩

theorem returnOf_encoding (lay : EsLayout) (m : Mode) (c : Cond) :
    (returnOf c).availability = .normalOnly ∧ encode lay m (returnOf c) = encodeBranch c 0#6 := by
  cases c <;> exact ⟨rfl, rfl⟩

theorem byteShiftOf_encoding (lay : EsLayout) (m : Mode) (op : ShiftOp) (r : RegNum) (n : BitVec 3) :
    (byteShiftOf op r n).availability = .operate ∧
      encode lay m (byteShiftOf op r n) = encodeShift true op r (0b110#3 ++ n) := by
  cases op <;> exact ⟨rfl, rfl⟩

theorem halfwordShiftOf_encoding (lay : EsLayout) (m : Mode) (op : ShiftOp) (r : RegNum) (n : BitVec 4) :
    (halfwordShiftOf op r n).availability = .operate ∧
      encode lay m (halfwordShiftOf op r n) = encodeShift true op r (0b10#2 ++ n) := by
  cases op <;> exact ⟨rfl, rfl⟩

theorem wordShiftOf_encoding (lay : EsLayout) (m : Mode) (op : ShiftOp) (r : RegNum) (n : BitVec 5) :
    (wordShiftOf op r n).availability = .operate ∧
      encode lay m (wordShiftOf op r n) = encodeShift true op r (0b0#1 ++ n) := by
  cases op <;> exact ⟨rfl, rfl⟩

theorem longShiftOf_encoding (lay : EsLayout) (m : Mode) (op : ShiftOp) (r : RegNum) (n : BitVec 6) :
    (longShiftOf op r n).availability = .operate ∧
      encode lay m (longShiftOf op r n) = encodeShift false op r n := by
  cases op <;> exact ⟨rfl, rfl⟩

theorem functionOf_encoding (lay : EsLayout) (m : Mode) {ty : FpType} {fn : FpFn} {r : RegNum} {i : Instr}
    (h : functionOf ty fn r = .instr i) : i.availability = .normalOnly ∧ encode lay m i = encodeFunction ty fn r := by
  cases fn
  case clr | abs | sgn | neg =>
    simp only [functionOf] at h
    split at h
    case isTrue hq => cases h; subst hq; exact ⟨rfl, rfl⟩
    case isFalse => cases h
  all_goals cases ty <;> cases h <;> exact ⟨rfl, rfl⟩

/-! ### The statement -/

/-- Every well-formed instruction is read back from its own halfwords. -/
theorem readAs_encode {lay : EsLayout} {m : Mode} {i : Instr} (hl : lay.valid = true) (hwf : i.wellFormed m = true) :
    ReadAs lay m i (encode lay m i) := by
  obtain ⟨hg, ho⟩ := wellFormed_iff.1 hwf
  have hm := ne_compact_of_hasGroup hg
  cases grouped i with
  | jump c rX rB addr =>
    obtain ⟨-, hop, henc⟩ := jumpOf_encoding lay m c rX rB addr
    rw [henc]
    exact readAs_jumpOf hm c (hop ▸ ho)
  | savedJump h =>
    obtain ⟨-, hop, henc⟩ := savedJumpOf_encoding lay m h
    rw [henc]
    exact readAs_savedJumpOf hm h (hop ▸ ho)
  | longBranch c disp =>
    obtain ⟨-, henc⟩ := longBranchOf_encoding lay m c disp
    rw [henc]
    exact readAs_longBranchOf hm c disp
  | branch c disp =>
    obtain ⟨hav, hop, henc⟩ := branchOf_encoding lay m c disp
    obtain rfl := eq_normal_of_normalOnly (hav ▸ hg)
    have hd : disp ≠ 0#6 := by simpa [hop] using ho
    rw [henc]
    exact readAs_branch (if_neg hd)
  | ret c =>
    obtain ⟨hav, henc⟩ := returnOf_encoding lay m c
    obtain rfl := eq_normal_of_normalOnly (hav ▸ hg)
    rw [henc]
    exact readAs_branch (if_pos rfl)
  | byteShift op r n =>
    obtain ⟨hav, henc⟩ := byteShiftOf_encoding lay m op r n
    rw [henc]
    exact readAs_byteShiftOf (hav ▸ hg) op r n
  | halfwordShift op r n =>
    obtain ⟨hav, henc⟩ := halfwordShiftOf_encoding lay m op r n
    rw [henc]
    exact readAs_halfwordShiftOf (hav ▸ hg) op r n
  | wordShift op r n =>
    obtain ⟨hav, henc⟩ := wordShiftOf_encoding lay m op r n
    rw [henc]
    exact readAs_wordShiftOf (hav ▸ hg) op r n
  | longShift op r n =>
    obtain ⟨hav, henc⟩ := longShiftOf_encoding lay m op r n
    rw [henc]
    exact readAs_longShiftOf (hav ▸ hg) op r n
  | mathFunction h =>
    obtain ⟨hav, henc⟩ := functionOf_encoding lay m h
    obtain rfl := eq_normal_of_normalOnly (hav ▸ hg)
    rw [henc]
    exact readAs_functionOf h
  | esl rD rS conn n =>
    obtain rfl := eq_normal_of_normalOnly hg
    exact readAs_extensible hl true rD rS conn n
  | esr rD rS conn n =>
    obtain rfl := eq_normal_of_normalOnly hg
    exact readAs_extensible hl false rD rS conn n
  | jms => exact readAs_jms hm ho
  | jxh => exact readAs_jxh hm ho
  | jxle => exact readAs_jxle hm ho
  | lbxh => exact readAs_lbxh hm _ _ _
  | lbxle => exact readAs_lbxle hm _ _ _
  | lbrs => exact readAs_lbrs hm _ _
  | lmu => exact readAs_multipleOf hm (by decide) (by decide) rfl ho
  | stmu => exact readAs_multipleOf hm (by decide) (by decide) rfl ho
  | lmubr => exact readAs_multipleOf hm (by decide) (by decide) rfl ho
  | stmubr => exact readAs_multipleOf hm (by decide) (by decide) rfl ho
  | lmuq => exact readAs_multipleOf hm (by decide) (by decide) rfl ho
  | stmuq => exact readAs_multipleOf hm (by decide) (by decide) rfl ho
  | slbr => exact readAs_supplementaryOf hm 0#3 ho
  | sstbr => exact readAs_supplementaryOf hm 1#3 ho
  | slsb => exact readAs_supplementaryOf hm 2#3 ho
  | sssb => exact readAs_supplementaryOf hm 3#3 ho
  | slpsb => exact readAs_supplementaryOf hm 4#3 ho
  | sspsb => exact readAs_supplementaryOf hm 5#3 ho
  | slasb => exact readAs_supplementaryOf hm 6#3 ho
  | ssasb => exact readAs_supplementaryOf hm 7#3 ho
  | lmuPop | stmuPush | lmubrPop | stmubrPush | lmuqPop | stmuqPush =>
    obtain rfl := eq_normal_of_normalOnly hg
    exact readAs_stackOf (by decide) (by decide) rfl
  | clr | clrl | abs | absl | inv | invl | neg | negl | nb | nh | n | nl => exact readAs_single hg rfl

/-- Settles O1: each group is read back by the row of R98 that its format fits. -/
theorem encodedInstructionsDecodeToThemselves : Obligations.EncodedInstructionsDecodeToThemselves :=
  fun _ _ _ rest hl hwf => readAs_encode hl hwf rest

end Sys2Proof.RoundTrip
end

section
/-! SUPPORT. What an instruction can do, said once: every completed instruction is a sequence of updates, each of
which keeps addresses within the address space, the program text as it is, and every file and memory to the
instructions that may change it. What every step keeps follows by one look at each update. -/

namespace Sys2Proof.Effects

open Sys2Proof.Machine Sys2Proof.Groups

/-- The instructions that store to memory (the table of accesses of 20_memory.md section 2). -/
def MayStore (i : Instr) : Prop :=
  (∃ r1 r2 rB addr, i = .stmu r1 r2 rB addr ∨ i = .stmubr r1 r2 rB addr ∨ i = .stmuq r1 r2 rB addr) ∨
    (∃ r1 r2, i = .stmuPush r1 r2 ∨ i = .stmubrPush r1 r2 ∨ i = .stmuqPush r1 r2) ∨
    (∃ r rB addr, i = .sstbr r rB addr ∨ i = .sssb r rB addr ∨ i = .sspsb r rB addr ∨ i = .ssasb r rB addr) ∨
    (∃ rX rB addr, i = .jms 0 rX rB addr) ∨ (∃ disp, i = .lbrs 0 disp)

/-- The instructions that load register `r` of a file: of a scratchpad file, its own load only (10_state.md section 4). -/
def MayLoad (i : Instr) (file : FileName) (r : RegNum) : Prop :=
  match file with
  | .x | .b | .f => True
  | .sb => ∃ rB addr, i = .slsb r rB addr
  | .psb => ∃ rB addr, i = .slpsb r rB addr
  | .asb => ∃ rB addr, i = .slasb r rB addr

/-- One update that instruction `i` may make. -/
inductive Update (i : Instr) (s : State) : State → Prop where
  | integer (r : RegNum) (v : Word) : Update i s (s.setX r v)
  | floating (r : RegNum) (v : Quad) : Update i s (s.setF r v)
  | flags (v : Status) : Update i s (s.setSw v)
  | draw : Update i s s.nextDraw
  | base (r : RegNum) (v : Addr) (hfits : FileFits s.addrLimit s.b → v.toNat < s.addrLimit) : Update i s (s.setB r v)
  | scratchpad (r : RegNum) (v : Addr) (hi : MayLoad i .sb r) (hfits : v.toNat < s.addrLimit) : Update i s (s.setSb r v)
  | pointerScratchpad (r : RegNum) (v : Addr) (hi : MayLoad i .psb r) (hfits : v.toNat < s.addrLimit) :
      Update i s (s.setPsb r v)
  | arrayScratchpad (r : RegNum) (v : Addr) (hi : MayLoad i .asb r) (hfits : v.toNat < s.addrLimit) :
      Update i s (s.setAsb r v)
  | counter (a : Addr) (heven : s.pc.getLsbD 0 = false → a.getLsbD 0 = false) (hfits : a.toNat < s.addrLimit) :
      Update i s (s.setPc a)
  | store (a n v : Nat) (hi : MayStore i) (hfits : a + n ≤ s.addrLimit) (hclear : ClearOfText s a n) :
      Update i s (s.setMem (s.mem.writeBytes a (toBigEndian n v)))

/-- A sequence of updates of instruction `i`. -/
abbrev Effect (i : Instr) : State → State → Prop := Relation.ReflTransGen (Update i)

section Operations
variable {i : Instr} {s t u : State}

theorem Effect.one (h : Update i s t) : Effect i s t := Relation.ReflTransGen.single h

/-! ### The program counter -/

theorem advance_effect {len : Nat} (hlen : len % 2 = 0) (h : advance len s = .ok t) : Effect i s t := by
  obtain ⟨hl, rfl⟩ := (advance_eq_ok_iff _ _ _).1 h
  have hle := s.addrLimit_le
  have hpc : (s.pc + BitVec.ofNat 64 len).toNat = s.pc.toNat + len := addr_add_toNat (by omega)
  apply Effect.one
  apply Update.counter
  · rw [addr_even_iff, addr_even_iff, hpc]
    omega
  · omega

theorem transferTo_effect {a : Addr} (ha : a.toNat < s.addrLimit) (h : transferTo a s = .ok t) : Effect i s t := by
  obtain ⟨heven, rfl⟩ := (transferTo_eq_ok_iff _ _ _).1 h
  exact Effect.one (.counter a (fun _ => heven) ha)

theorem relativeTarget_lt {len : Nat} {disp : Int} {a : Addr} (h : relativeTarget s len disp = .ok a) :
    a.toNat < s.addrLimit := by
  obtain ⟨h0, hlt, rfl⟩ := (relativeTarget_eq_ok_iff _ _ _ _).1 h
  have := s.addrLimit_le
  rw [BitVec.toNat_ofNat, Nat.mod_eq_of_lt (by omega)]
  omega

/-- An address read from memory is in range. -/
theorem memRead_addr_lt {a v : Nat} (h : memRead s a s.addrBytes = .ok v) : (BitVec.ofNat 64 v).toNat < s.addrLimit := by
  obtain ⟨-, hv, -⟩ := (memRead_eq_ok_iff _ _ _ _).1 h
  rw [← s.addrLimit_eq] at hv
  have := s.addrLimit_le
  rwa [BitVec.toNat_ofNat, Nat.mod_eq_of_lt (by omega)]

theorem jumpTarget_lt {rX rB : RegNum} {addr : Half} {a : Addr} (h : jumpTarget rX rB addr s = .ok a) :
    a.toNat < s.addrLimit := by
  unfold jumpTarget at h
  split at h
  · cases h
    exact s.truncAddr_lt _
  · obtain ⟨v, hv, h⟩ := (Except.bind_eq_ok_iff _ _ _).1 h
    cases h
    exact memRead_addr_lt hv

theorem nextAddr_lt {len : Nat} {a : Addr} (h : nextAddr s len = .ok a) : a.toNat < s.addrLimit := by
  obtain ⟨hl, rfl⟩ := (nextAddr_eq_ok_iff _ _ _).1 h
  have := s.addrLimit_le
  rwa [addr_add_toNat (by omega)]

/-! ### Registers, memory and the stack pointer -/

theorem setFlags_effect (c v : Option Bool) (r : Option Sign) : Effect i s (setFlags c v r s) :=
  (Effect.one (.flags _)).tail .draw

theorem writePair_effect (r : RegNum) (v : Long) : Effect i s (writePair r v s) :=
  (Effect.one (.integer r _)).tail (.integer (r + 1) _)

theorem writeFile_effect {file : FileName} {r : RegNum} {v : Nat} (hi : MayLoad i file r)
    (hv : v < 256 ^ s.elementBytes file) : Effect i s (s.writeFile file r v) := by
  have hle := s.addrLimit_le
  have haddr : v < 256 ^ s.addrBytes → (BitVec.ofNat 64 v).toNat < s.addrLimit := by
    rw [← s.addrLimit_eq]
    intro h
    rwa [BitVec.toNat_ofNat, Nat.mod_eq_of_lt (by omega)]
  apply Effect.one
  cases file with
  | x => exact .integer r _
  | b => exact .base r _ (fun _ => haddr hv)
  | f => exact .floating r _
  | sb => exact .scratchpad r _ hi (haddr hv)
  | psb => exact .pointerScratchpad r _ hi (haddr hv)
  | asb => exact .arrayScratchpad r _ hi (haddr hv)

theorem memWrite_effect {a n v : Nat} (hi : MayStore i) (h : memWrite s a n v = .ok t) : Effect i s t := by
  obtain ⟨hfits, hclear, rfl⟩ := (memWrite_eq_ok_iff _ _ _ _ _).1 h
  exact Effect.one (.store a n v hi hfits hclear)

theorem loadRange_effect {file : FileName} {count : Nat} {r : RegNum} {a : Nat} (hi : ∀ r, MayLoad i file r)
    (h : loadRange file count r a s = .ok t) : Effect i s t := by
  induction count generalizing r a s with
  | zero =>
    cases h
    exact .refl
  | succ count ih =>
    obtain ⟨v, hv, h⟩ := (Except.bind_eq_ok_iff _ _ _).1 h
    obtain ⟨-, hlt, -⟩ := (memRead_eq_ok_iff _ _ _ _).1 hv
    exact (writeFile_effect (hi r) hlt).trans (ih h)

theorem storeRange_effect {file : FileName} {count : Nat} {r : RegNum} {a : Nat} (hi : MayStore i)
    (h : storeRange file count r a s = .ok t) : Effect i s t := by
  induction count generalizing r a s with
  | zero =>
    cases h
    exact .refl
  | succ count ih =>
    obtain ⟨u, hu, h⟩ := (Except.bind_eq_ok_iff _ _ _).1 h
    exact (memWrite_effect hi hu).trans (ih h)

theorem growStack_effect {len : Nat} (h : growStack len s = .ok t) : Effect i s t := by
  obtain ⟨hl, rfl⟩ := (growStack_eq_ok_iff _ _ _).1 h
  have := s.addrLimit_le
  exact Effect.one (.base 0 _ (fun _ => by rwa [addr_add_toNat (by omega)]))

theorem shrinkStack_effect {len : Nat} (h : shrinkStack len s = .ok t) : Effect i s t := by
  obtain ⟨hl, rfl⟩ := (shrinkStack_eq_ok_iff _ _ _).1 h
  refine Effect.one (.base 0 _ (fun hb => ?_))
  have := hb 0
  rw [addr_sub_toNat hl]
  omega

theorem saveReturn_effect {rR : RegNum} {next : Addr} (hi : rR = 0 → MayStore i) (hn : next.toNat < s.addrLimit)
    (h : saveReturn rR next s = .ok t) : Effect i s t := by
  unfold saveReturn at h
  split at h
  · rename_i h0
    obtain ⟨u, hu, h⟩ := (Except.bind_eq_ok_iff _ _ _).1 h
    exact (memWrite_effect (hi h0) hu).trans (growStack_effect h)
  · cases h
    exact Effect.one (.base rR next (fun _ => hn))

/-- Saving a return address leaves the launch parameters, and with them the size of the address space. -/
theorem saveReturn_addrLimit {rR : RegNum} {next : Addr} (h : saveReturn rR next s = .ok t) :
    t.addrLimit = s.addrLimit := by
  obtain ⟨-, rfl⟩ | ⟨-, -, -, rfl⟩ := (saveReturn_eq_ok_iff _ _ _ _).1 h <;> rfl

theorem popReturn_effect (h : popReturn s = .ok t) : Effect i s t := by
  obtain ⟨u, hu, h⟩ := (Except.bind_eq_ok_iff _ _ _).1 h
  obtain ⟨v, hv, h⟩ := (Except.bind_eq_ok_iff _ _ _).1 h
  have hbytes : u.addrBytes = s.addrBytes := by
    obtain ⟨-, rfl⟩ := (shrinkStack_eq_ok_iff _ _ _).1 hu
    rfl
  exact (shrinkStack_effect hu).trans (transferTo_effect (memRead_addr_lt (hbytes ▸ hv)) h)

/-- The end of a data-processing instruction. -/
theorem finish_effect {len : Nat} {c v : Option Bool} {r : Option Sign} (hu : Effect i s u) (hlen : len % 2 = 0)
    (h : advance len (setFlags c v r u) = .ok t) : Effect i s t :=
  (hu.trans (setFlags_effect c v r)).trans (advance_effect hlen h)

/-! ### The meanings -/

theorem loadMultiple_effect {j : Instr} {file : FileName} {r1 r2 rB : RegNum} {addr : Half}
    (hi : ∀ r, MayLoad i file r) (h : loadMultiple j file r1 r2 rB addr s = .ok t) : Effect i s t := by
  simp only [loadMultiple, Except.bind_eq_ok_iff] at h
  obtain ⟨-, -, u, hu, h⟩ := h
  exact (loadRange_effect hi hu).trans (advance_effect rfl h)

theorem storeMultiple_effect {j : Instr} {file : FileName} {r1 r2 rB : RegNum} {addr : Half}
    (hi : MayStore i) (h : storeMultiple j file r1 r2 rB addr s = .ok t) : Effect i s t := by
  simp only [storeMultiple, Except.bind_eq_ok_iff] at h
  obtain ⟨-, -, u, hu, h⟩ := h
  exact (storeRange_effect hi hu).trans (advance_effect rfl h)

theorem popMultiple_effect {j : Instr} {file : FileName} {r1 r2 : RegNum} (hi : ∀ r, MayLoad i file r)
    (h : popMultiple j file r1 r2 s = .ok t) : Effect i s t := by
  simp only [popMultiple, Except.bind_eq_ok_iff] at h
  obtain ⟨-, -, u, hu, v, hv, h⟩ := h
  exact ((shrinkStack_effect hu).trans (loadRange_effect hi hv)).trans (advance_effect rfl h)

theorem pushMultiple_effect {j : Instr} {file : FileName} {r1 r2 : RegNum} (hi : MayStore i)
    (h : pushMultiple j file r1 r2 s = .ok t) : Effect i s t := by
  simp only [pushMultiple, Except.bind_eq_ok_iff] at h
  obtain ⟨-, -, u, hu, v, hv, h⟩ := h
  exact ((storeRange_effect hi hu).trans (growStack_effect hv)).trans (advance_effect rfl h)

theorem loadOne_effect {file : FileName} {r rB : RegNum} {addr : Half} (hi : MayLoad i file r)
    (h : loadOne file r rB addr s = .ok t) : Effect i s t := by
  obtain ⟨v, hv, h⟩ := (Except.bind_eq_ok_iff _ _ _).1 h
  obtain ⟨-, hlt, -⟩ := (memRead_eq_ok_iff _ _ _ _).1 hv
  exact (writeFile_effect hi hlt).trans (advance_effect rfl h)

theorem storeOne_effect {file : FileName} {r rB : RegNum} {addr : Half} (hi : MayStore i)
    (h : storeOne file r rB addr s = .ok t) : Effect i s t := by
  obtain ⟨u, hu, h⟩ := (Except.bind_eq_ok_iff _ _ _).1 h
  exact (memWrite_effect hi hu).trans (advance_effect rfl h)

theorem condJump_effect {c : Cond} {w : Status} {rX rB : RegNum} {addr : Half}
    (h : condJump c w rX rB addr s = .ok t) : Effect i s t := by
  unfold condJump at h
  split at h
  · obtain ⟨a, ha, h⟩ := (Except.bind_eq_ok_iff _ _ _).1 h
    exact transferTo_effect (jumpTarget_lt ha) h
  · exact advance_effect rfl h

/-- A relative transfer, which every branch makes when it is taken. -/
theorem relative_effect {len : Nat} {disp : Int}
    (h : (relativeTarget s len disp >>= fun a => transferTo a s) = .ok t) : Effect i s t := by
  obtain ⟨a, ha, h⟩ := (Except.bind_eq_ok_iff _ _ _).1 h
  exact transferTo_effect (relativeTarget_lt ha) h

theorem longBranch_effect {c : Cond} {disp : Half} (h : longBranch c disp s = .ok t) : Effect i s t := by
  unfold longBranch at h
  split at h
  · exact relative_effect h
  · exact advance_effect rfl h

theorem branch_effect {c : Cond} {disp : BitVec 6} (h : branch c disp s = .ok t) : Effect i s t := by
  unfold branch at h
  split at h
  · exact relative_effect h
  · exact advance_effect rfl h

theorem returnIf_effect {c : Cond} (h : returnIf c s = .ok t) : Effect i s t := by
  unfold returnIf at h
  split at h
  · exact popReturn_effect h
  · exact advance_effect rfl h

theorem stepCount_effect (down : Bool) (cR : RegNum) : Effect i s (stepCount down cR s) := Effect.one (.integer cR _)

theorem countJump_effect {down : Bool} {cR lR rB : RegNum} {addr : Half}
    (h : countJump down cR lR rB addr s = .ok t) : Effect i s t := by
  refine (stepCount_effect down cR).trans ?_
  simp only [countJump] at h
  split at h
  · exact transferTo_effect (State.truncAddr_lt _ _) h
  · exact advance_effect rfl h

theorem countBranch_effect {down : Bool} {cR lR : RegNum} {disp : Half}
    (h : countBranch down cR lR disp s = .ok t) : Effect i s t := by
  refine (stepCount_effect down cR).trans ?_
  simp only [countBranch] at h
  split at h
  · exact relative_effect h
  · exact advance_effect rfl h

theorem jumpSubroutine_effect {rR rX rB : RegNum} {addr : Half} (hi : rR = 0 → MayStore i)
    (h : jumpSubroutine rR rX rB addr s = .ok t) : Effect i s t := by
  simp only [jumpSubroutine, Except.bind_eq_ok_iff] at h
  obtain ⟨a, ha, next, hn, u, hu, h⟩ := h
  have hlt := jumpTarget_lt ha
  rw [← saveReturn_addrLimit hu] at hlt
  exact (saveReturn_effect hi (nextAddr_lt hn) hu).trans (transferTo_effect hlt h)

theorem branchSubroutine_effect {rR : RegNum} {disp : Half} (hi : rR = 0 → MayStore i)
    (h : branchSubroutine rR disp s = .ok t) : Effect i s t := by
  simp only [branchSubroutine, Except.bind_eq_ok_iff] at h
  obtain ⟨next, hn, u, hu, a, ha, h⟩ := h
  have hlt := relativeTarget_lt ha
  rw [← saveReturn_addrLimit hu] at hlt
  exact (saveReturn_effect hi (nextAddr_lt hn) hu).trans (transferTo_effect hlt h)

theorem extensibleShift_effect {j : Instr} {left : Bool} {rD rS : RegNum} {conn : BitVec 4} {n : BitVec 6}
    (h : extensibleShift j left rD rS conn n s = .ok t) : Effect i s t := by
  obtain ⟨-, -, h⟩ := (Except.bind_eq_ok_iff _ _ _).1 h
  exact finish_effect (writePair_effect _ _) rfl h

theorem shiftNarrow_effect {op : ShiftOp} {w : Nat} {r : RegNum} {n : Nat} (h : shiftNarrow op w r n s = .ok t) :
    Effect i s t :=
  finish_effect (Effect.one (.integer r _)) rfl h

theorem shiftWord_effect {op : ShiftOp} {r : RegNum} {n : Nat} (h : shiftWord op r n s = .ok t) : Effect i s t :=
  finish_effect (Effect.one (.integer r _)) rfl h

theorem shiftLong_effect {j : Instr} {op : ShiftOp} {r : RegNum} {n : Nat} (h : shiftLong j op r n s = .ok t) :
    Effect i s t := by
  obtain ⟨-, -, h⟩ := (Except.bind_eq_ok_iff _ _ _).1 h
  exact finish_effect (writePair_effect _ _) rfl h

theorem replaceWord_effect {r : RegNum} {v : Word} (h : replaceWord r v s = .ok t) : Effect i s t :=
  finish_effect (Effect.one (.integer r v)) rfl h

theorem replaceLong_effect {j : Instr} {r : RegNum} {v : Long} (h : replaceLong j r v s = .ok t) : Effect i s t := by
  obtain ⟨-, -, h⟩ := (Except.bind_eq_ok_iff _ _ _).1 h
  exact finish_effect (writePair_effect r v) rfl h

theorem arithmeticWord_effect {op : Word → Word} {r : RegNum} (h : arithmeticWord op r s = .ok t) : Effect i s t :=
  finish_effect (Effect.one (.integer r _)) rfl h

theorem arithmeticLong_effect {j : Instr} {op : Long → Long} {r : RegNum} (h : arithmeticLong j op r s = .ok t) :
    Effect i s t := by
  obtain ⟨-, -, h⟩ := (Except.bind_eq_ok_iff _ _ _).1 h
  exact finish_effect (writePair_effect _ _) rfl h

theorem normalizeNarrow_effect {j : Instr} {w : Nat} {rD rS : RegNum} (h : normalizeNarrow j w rD rS s = .ok t) :
    Effect i s t := by
  simp only [normalizeNarrow, Except.bind_eq_ok_iff] at h
  obtain ⟨-, -, -, -, h⟩ := h
  exact finish_effect ((Effect.one (.integer rS _)).tail (.integer rD _)) rfl h

theorem normalizeWord_effect {j : Instr} {rD rS : RegNum} (h : normalizeWord j rD rS s = .ok t) : Effect i s t := by
  simp only [normalizeWord, Except.bind_eq_ok_iff] at h
  obtain ⟨-, -, -, -, h⟩ := h
  exact finish_effect ((Effect.one (.integer rS _)).tail (.integer rD _)) rfl h

theorem normalizeLong_effect {j : Instr} {rD rS : RegNum} (h : normalizeLong j rD rS s = .ok t) : Effect i s t := by
  simp only [normalizeLong, Except.bind_eq_ok_iff] at h
  obtain ⟨-, -, -, -, -, -, -, -, h⟩ := h
  exact finish_effect ((writePair_effect rS _).tail (.integer rD _)) rfl h

theorem applyFunction_effect {ty : FpType} {fn : FpFn} {r : RegNum} (h : applyFunction ty fn r s = .ok t) :
    Effect i s t :=
  finish_effect (Effect.one (.floating r _)) rfl h

end Operations

/-! ### Every instruction -/

theorem ok_of_next {r : Except Fault State} {t : State} (h : outcomeOf r = .next t) : r = .ok t :=
  (outcomeOf_eq_next_iff r t).1 h

/-- Every completed instruction is a sequence of updates that it may make. -/
theorem exec_effect {i : Instr} {s t : State} (h : exec i s = .next t) : Effect i s t := by
  cases grouped i with
  | lmu => exact loadMultiple_effect (file := .x) (fun _ => trivial) (ok_of_next h)
  | lmubr => exact loadMultiple_effect (file := .b) (fun _ => trivial) (ok_of_next h)
  | lmuq => exact loadMultiple_effect (file := .f) (fun _ => trivial) (ok_of_next h)
  | stmu => exact storeMultiple_effect (.inl ⟨_, _, _, _, .inl rfl⟩) (ok_of_next h)
  | stmubr => exact storeMultiple_effect (.inl ⟨_, _, _, _, .inr (.inl rfl)⟩) (ok_of_next h)
  | stmuq => exact storeMultiple_effect (.inl ⟨_, _, _, _, .inr (.inr rfl)⟩) (ok_of_next h)
  | slbr => exact loadOne_effect (file := .b) trivial (ok_of_next h)
  | slsb => exact loadOne_effect (file := .sb) ⟨_, _, rfl⟩ (ok_of_next h)
  | slpsb => exact loadOne_effect (file := .psb) ⟨_, _, rfl⟩ (ok_of_next h)
  | slasb => exact loadOne_effect (file := .asb) ⟨_, _, rfl⟩ (ok_of_next h)
  | sstbr r rB addr =>
    exact storeOne_effect (.inr (.inr (.inl ⟨r, rB, addr, by simp⟩))) (ok_of_next h)
  | sssb r rB addr =>
    exact storeOne_effect (.inr (.inr (.inl ⟨r, rB, addr, by simp⟩))) (ok_of_next h)
  | sspsb r rB addr =>
    exact storeOne_effect (.inr (.inr (.inl ⟨r, rB, addr, by simp⟩))) (ok_of_next h)
  | ssasb r rB addr =>
    exact storeOne_effect (.inr (.inr (.inl ⟨r, rB, addr, by simp⟩))) (ok_of_next h)
  | lmuPop => exact popMultiple_effect (file := .x) (fun _ => trivial) (ok_of_next h)
  | lmuqPop => exact popMultiple_effect (file := .f) (fun _ => trivial) (ok_of_next h)
  | lmubrPop =>
    have h' := ok_of_next h
    simp only [Except.bind_eq_ok_iff] at h'
    obtain ⟨-, -, -, -, h'⟩ := h'
    exact popMultiple_effect (file := .b) (fun _ => trivial) h'
  | stmuPush => exact pushMultiple_effect (.inr (.inl ⟨_, _, .inl rfl⟩)) (ok_of_next h)
  | stmubrPush => exact pushMultiple_effect (.inr (.inl ⟨_, _, .inr (.inl rfl)⟩)) (ok_of_next h)
  | stmuqPush => exact pushMultiple_effect (.inr (.inl ⟨_, _, .inr (.inr rfl)⟩)) (ok_of_next h)
  | jms rR rX rB addr =>
    refine jumpSubroutine_effect ?_ (ok_of_next h)
    rintro rfl
    exact .inr (.inr (.inr (.inl ⟨rX, rB, addr, rfl⟩)))
  | lbrs rR disp =>
    refine branchSubroutine_effect ?_ (ok_of_next h)
    rintro rfl
    exact .inr (.inr (.inr (.inr ⟨disp, rfl⟩)))
  | lbxh | lbxle => exact countBranch_effect (ok_of_next h)
  | jxh | jxle => exact countJump_effect (ok_of_next h)
  | esl | esr => exact extensibleShift_effect (ok_of_next h)
  | clr | inv => exact replaceWord_effect (ok_of_next h)
  | clrl | invl => exact replaceLong_effect (ok_of_next h)
  | abs | neg => exact arithmeticWord_effect (ok_of_next h)
  | absl | negl => exact arithmeticLong_effect (ok_of_next h)
  | nb | nh => exact normalizeNarrow_effect (ok_of_next h)
  | n => exact normalizeWord_effect (ok_of_next h)
  | nl => exact normalizeLong_effect (ok_of_next h)
  | jump => exact condJump_effect (ok_of_next (exec_jumpOf .. ▸ h))
  | savedJump hj => exact condJump_effect (ok_of_next (exec_savedJumpOf hj s ▸ h))
  | longBranch => exact longBranch_effect (ok_of_next (exec_longBranchOf .. ▸ h))
  | branch => exact branch_effect (ok_of_next (exec_branchOf .. ▸ h))
  | ret => exact returnIf_effect (ok_of_next (exec_returnOf .. ▸ h))
  | byteShift => exact shiftNarrow_effect (ok_of_next (exec_byteShiftOf .. ▸ h))
  | halfwordShift => exact shiftNarrow_effect (ok_of_next (exec_halfwordShiftOf .. ▸ h))
  | wordShift => exact shiftWord_effect (ok_of_next (exec_wordShiftOf .. ▸ h))
  | longShift => exact shiftLong_effect (ok_of_next (exec_longShiftOf .. ▸ h))
  | mathFunction hf => exact applyFunction_effect (ok_of_next (exec_functionOf hf s ▸ h))

/-! ### What each update keeps -/

section Kept
variable {i : Instr} {s t : State}

/-- What every update keeps, every sequence of them keeps. -/
theorem Effect.keeps {P : State → State → Prop} (hrefl : ∀ s, P s s) (htrans : ∀ s t u, P s t → P t u → P s u)
    (hupdate : ∀ s t, Update i s t → P s t) (h : Effect i s t) : P s t := by
  induction h with
  | refl => exact hrefl s
  | tail _ hu ih => exact htrans _ _ _ ih (hupdate _ _ hu)

theorem Effect.params_ssw (h : Effect i s t) : t.params = s.params ∧ t.ssw = s.ssw := by
  refine h.keeps (P := fun s t => t.params = s.params ∧ t.ssw = s.ssw) (fun _ => ⟨rfl, rfl⟩) ?_ ?_
  · rintro s t u ⟨hp, hw⟩ ⟨hp', hw'⟩
    exact ⟨hp'.trans hp, hw'.trans hw⟩
  · intro s t hu
    cases hu <;> exact ⟨rfl, rfl⟩

/-- Only a store changes memory. -/
theorem Effect.mem_eq (hi : ¬ MayStore i) (h : Effect i s t) : t.mem = s.mem := by
  refine h.keeps (P := fun s t => t.mem = s.mem) (fun _ => rfl) (fun _ _ _ h h' => h'.trans h) ?_
  intro s t hu
  cases hu with
  | store _ _ _ hs => exact absurd hs hi
  | _ => rfl

theorem Effect.sb_eq {r : RegNum} (hi : ¬ MayLoad i .sb r) (h : Effect i s t) : t.sb.read r = s.sb.read r := by
  refine h.keeps (P := fun s t => t.sb.read r = s.sb.read r) (fun _ => rfl) (fun _ _ _ h h' => h'.trans h) ?_
  intro s t hu
  cases hu with
  | scratchpad q _ hq => exact RegFile.read_write_other _ _ (fun e => hi (e ▸ hq))
  | _ => rfl

theorem Effect.psb_eq {r : RegNum} (hi : ¬ MayLoad i .psb r) (h : Effect i s t) : t.psb.read r = s.psb.read r := by
  refine h.keeps (P := fun s t => t.psb.read r = s.psb.read r) (fun _ => rfl) (fun _ _ _ h h' => h'.trans h) ?_
  intro s t hu
  cases hu with
  | pointerScratchpad q _ hq => exact RegFile.read_write_other _ _ (fun e => hi (e ▸ hq))
  | _ => rfl

theorem Effect.asb_eq {r : RegNum} (hi : ¬ MayLoad i .asb r) (h : Effect i s t) : t.asb.read r = s.asb.read r := by
  refine h.keeps (P := fun s t => t.asb.read r = s.asb.read r) (fun _ => rfl) (fun _ _ _ h h' => h'.trans h) ?_
  intro s t hu
  cases hu with
  | arrayScratchpad q _ hq => exact RegFile.read_write_other _ _ (fun e => hi (e ▸ hq))
  | _ => rfl

/-- Every byte of the program text is as it was, and every supplied byte is still supplied. -/
def KeepsText (s t : State) : Prop :=
  t.params = s.params ∧ ∀ a, (inText s.params a = true → t.mem.read a = s.mem.read a) ∧
    ((s.mem.read a).isSome = true → (t.mem.read a).isSome = true)

theorem KeepsText.of_mem_eq (hp : t.params = s.params) (hm : t.mem = s.mem) : KeepsText s t :=
  ⟨hp, fun _ => by simp [hm]⟩

/-- A store that misses the program text writes none of it, and what it writes it supplies. -/
theorem store_keepsText {a n : Nat} (v : Nat) (hclear : ClearOfText s a n) :
    KeepsText s (s.setMem (s.mem.writeBytes a (toBigEndian n v))) := by
  refine ⟨rfl, fun k => ?_⟩
  rw [State.setMem_mem, Memory.read_writeBytes, toBigEndian_length]
  by_cases hk : a ≤ k ∧ k < a + n
  · rw [if_pos hk]
    refine ⟨fun htext => ?_, fun _ => ?_⟩
    · have := hclear (k - a) (by omega)
      rw [show a + (k - a) = k by omega, htext] at this
      cases this
    · rw [toBigEndian_getElem? _ _ _ (by omega)]
      rfl
  · rw [if_neg hk]
    exact ⟨fun _ => rfl, id⟩

theorem Effect.keepsText (h : Effect i s t) : KeepsText s t := by
  refine h.keeps (fun _ => .of_mem_eq rfl rfl) ?_ ?_
  · rintro s t u ⟨hp, hk⟩ ⟨hp', hk'⟩
    refine ⟨hp'.trans hp, fun a => ⟨fun htext => ?_, fun hs => (hk' a).2 ((hk a).2 hs)⟩⟩
    rw [(hk' a).1 (hp ▸ htext), (hk a).1 htext]
  · intro s t hu
    cases hu with
    | store _ _ v _ _ hclear => exact store_keepsText v hclear
    | _ => exact .of_mem_eq rfl rfl

/-! ### The invariant -/

theorem FileFits.write {limit : Nat} {file : RegFile 64} {v : Addr} (h : FileFits limit file) (r : RegNum)
    (hv : v.toNat < limit) : FileFits limit (file.write r v) := by
  intro q
  rw [RegFile.read_write]
  split
  · exact hv
  · exact h q

theorem Update.sound (hs : s.Sound) (h : Update i s t) : t.Sound := by
  cases h with
  | integer | floating | flags | draw => exact { hs with }
  | base r v hv => exact { hs with baseFits := FileFits.write hs.baseFits r (hv hs.baseFits) }
  | scratchpad r v _ hv => exact { hs with scratchpadFits := FileFits.write hs.scratchpadFits r hv }
  | pointerScratchpad r v _ hv =>
    exact { hs with pointerScratchpadFits := FileFits.write hs.pointerScratchpadFits r hv }
  | arrayScratchpad r v _ hv =>
    exact { hs with arrayScratchpadFits := FileFits.write hs.arrayScratchpadFits r hv }
  | counter a heven hfits => exact { hs with pcEven := heven hs.pcEven, pcFits := hfits }
  | store a n v _ hfits =>
    refine { hs with memoryCanonical := Memory.wf_writeBytes _ _ hs.memoryCanonical, memoryFits := fun c hc => ?_ }
    rcases Memory.mem_writeBytes hc with hin | hold
    · rw [toBigEndian_length] at hin
      exact Nat.lt_of_lt_of_le hin.2 hfits
    · exact hs.memoryFits c hold

theorem Effect.sound (hs : s.Sound) (h : Effect i s t) : t.Sound :=
  h.keeps (P := fun s t => s.Sound → t.Sound) (fun _ => id) (fun _ _ _ h h' hs => h' (h hs))
    (fun _ _ hu hs => hu.sound hs) hs

end Kept

/-! ### Steps and runs -/

/-- A completed step is a completed instruction, and then the END_PC test. -/
theorem step_eq_next {s t : State} (h : step s = .next t) : ∃ i u, exec i s = .next u ∧ t = u.noteEnd := by
  unfold step at h
  split at h
  · cases h
  split at h
  · cases h
  split at h
  · cases h
  split at h
  · cases h
  · cases h
  split at h
  case h_1 i _ _ u hu =>
    cases h
    exact ⟨i, u, hu, rfl⟩
  all_goals cases h

/-- Settles O6: a step is an instruction's effect, which keeps the invariant, and the END_PC test, which marks the
state and changes nothing the invariant speaks of. -/
theorem stepKeepsStatesSound : Obligations.StepKeepsStatesSound := by
  intro s t hs h
  obtain ⟨i, u, hu, rfl⟩ := step_eq_next h
  exact { (exec_effect hu).sound hs with }

/-- Settles O7: every register and the program counter are zero, and memory lists nothing. -/
theorem resetStateIsSound : Obligations.ResetStateIsSound := by
  have hzero : FileFits State.reset.addrLimit (Vector.replicate 8 0) := by
    intro r
    simp [RegFile.read, State.addrLimit, State.reset, resetParams]
  exact {
    memoryCanonical := rfl
    memoryFits := fun c hc => by cases hc
    pcEven := rfl
    pcFits := by decide
    baseFits := hzero
    scratchpadFits := hzero
    pointerScratchpadFits := hzero
    arrayScratchpadFits := hzero }

theorem fileFits_of_check {limit : Nat} {file : RegFile 64} (h : fileFits limit file = true) : FileFits limit file := by
  intro r
  have hall := List.all_eq_true.1 h
  simpa using hall (file.read r) (by simp [RegFile.read])

/-- Settles O8: the checks on the launch arguments are the invariant's clauses, and more. -/
theorem validLaunchesStartSound : Obligations.ValidLaunchesStartSound := by
  intro l h
  simp only [Launch.valid, Bool.and_eq_true, Bool.not_eq_true', decide_eq_true_eq, List.all_eq_true] at h
  obtain ⟨⟨⟨⟨⟨⟨⟨⟨⟨⟨⟨heven, -⟩, hfits⟩, hwf⟩, himage⟩, -⟩, -⟩, -⟩, hb⟩, hsb⟩, hpsb⟩, hasb⟩ := h
  exact {
    memoryCanonical := hwf
    memoryFits := himage
    pcEven := heven
    pcFits := hfits
    baseFits := fileFits_of_check hb
    scratchpadFits := fileFits_of_check hsb
    pointerScratchpadFits := fileFits_of_check hpsb
    arrayScratchpadFits := fileFits_of_check hasb }

/-- Settles O9: no update is of a launch parameter or of the saved condition codes. -/
theorem stepKeepsParametersAndSavedStatus : Obligations.StepKeepsParametersAndSavedStatus := by
  intro s t h
  obtain ⟨i, u, hu, rfl⟩ := step_eq_next h
  exact (exec_effect hu).params_ssw

/-- Settles O10: the only update of memory is a store that misses the program text. -/
theorem stepKeepsProgramTextAndSuppliedBytes : Obligations.StepKeepsProgramTextAndSuppliedBytes := by
  intro s t a h
  obtain ⟨i, u, hu, rfl⟩ := step_eq_next h
  obtain ⟨-, hkeep⟩ := (exec_effect hu).keepsText
  exact hkeep a

/-- Settles O11: an instruction that may not store makes no update of memory. -/
theorem onlyStoresChangeMemory : Obligations.OnlyStoresChangeMemory := by
  intro i s t h hne
  by_contra hi
  exact hne ((exec_effect h).mem_eq hi)

/-- Settles O12: an update of a scratchpad file is by the load of that file and that register. -/
theorem onlyTheirLoadsChangeScratchpads : Obligations.OnlyTheirLoadsChangeScratchpads := by
  intro i s t r h
  have he := exec_effect h
  refine ⟨fun hne => ?_, fun hne => ?_, fun hne => ?_⟩
  · by_contra hi
    exact hne (he.sb_eq hi)
  · by_contra hi
    exact hne (he.psb_eq hi)
  · by_contra hi
    exact hne (he.asb_eq hi)

/-- Settles O13, by induction on the step budget: the last step is the one that sets the mark, and sets it only
where `pc` is END_PC. -/
theorem finishedRunsEndAtEndPc : Obligations.FinishedRunsEndAtEndPc := by
  intro fuel s t h
  induction fuel generalizing s with
  | zero => cases h
  | succ fuel ih =>
    simp only [run] at h
    split at h
    case h_1 u hstep =>
      obtain ⟨hparams, -⟩ := stepKeepsParametersAndSavedStatus s u hstep
      split at h
      case isTrue hfin =>
        cases h
        obtain ⟨i, v, -, rfl⟩ := step_eq_next hstep
        have hend : v.params.endPc = some v.pc := of_decide_eq_true hfin
        exact ⟨hparams ▸ hend, hparams⟩
      case isFalse =>
        obtain ⟨hend, hp⟩ := ih u h
        exact ⟨hparams ▸ hend, hp.trans hparams⟩
    all_goals cases h

end Sys2Proof.Effects
end

section
/-! SUPPORT. Effective addresses, the memory primitives, and the condition table (20_memory.md sections 1 and 4,
10_state.md section 6). -/

namespace Sys2Proof.Addresses

open Sys2Proof.Machine

/-! ### Effective addresses -/

theorem addrLimit_dvd (s : State) : s.addrLimit ∣ 2 ^ 64 := by
  unfold State.addrLimit
  split
  · exact ⟨2 ^ 32, by norm_num⟩
  · exact dvd_rfl

theorem addrLimit_dvd_int (s : State) : (s.addrLimit : Int) ∣ 2 ^ 64 := by
  exact_mod_cast Int.natCast_dvd_natCast.2 (addrLimit_dvd s)

theorem truncAddr_add_toNat (s : State) (a b : Addr) :
    (s.truncAddr (a + b)).toNat = (a.toNat + b.toNat) % s.addrLimit := by
  rw [s.truncAddr_toNat, BitVec.toNat_add, Nat.mod_mod_of_dvd _ (addrLimit_dvd s)]

theorem ea0_toNat (rB : RegNum) (addr : Half) (s : State) :
    (ea0 rB addr s).toNat = ((s.b.read rB).toNat + addr.toNat) % s.addrLimit := by
  have hfield : (addr.setWidth 64).toNat = addr.toNat := by
    have := addr.isLt
    rw [BitVec.toNat_setWidth, Nat.mod_eq_of_lt (by omega)]
  rw [ea0, truncAddr_add_toNat, hfield]

/-- An index is the same modulo the address space, read as signed or as the address it extends to. -/
theorem signExtend_toNat_modEq (s : State) (x : Word) :
    ((x.signExtend 64).toNat : Int) ≡ x.toInt [ZMOD s.addrLimit] := by
  have h : ((x.signExtend 64).toNat : Int) ≡ x.toInt [ZMOD 2 ^ 64] := by
    rw [← BitVec.toInt_signExtend_of_le (x := x) (v := 64) (by omega), BitVec.toInt_eq_toNat_bmod]
    exact Int.bmod_emod.symm
  exact h.of_dvd (addrLimit_dvd_int s)

theorem ea1_toNat (rX rB : RegNum) (addr : Half) (s : State) :
    ((ea1 rX rB addr s).toNat : Int) =
      (((s.b.read rB).toNat : Int) + addr.toNat + (s.x.read rX).toInt) % s.addrLimit := by
  rw [ea1, truncAddr_add_toNat, ea0_toNat]
  push_cast
  exact (Int.mod_modEq _ _).add (signExtend_toNat_modEq s (s.x.read rX))

/-- Settles O15: both sums are truncated to an address. -/
theorem effectiveAddressArithmetic : Obligations.EffectiveAddressArithmetic :=
  fun rX rB addr s => ⟨ea0_toNat rB addr s, ea1_toNat rX rB addr s⟩

/-! ### The store primitive -/

/-- Settles O16: the bytes stored are those a read puts together again. -/
theorem storedValueReadsBack : Obligations.StoredValueReadsBack := by
  intro s a n v hv
  have hok := fun t => memWrite_eq_ok_iff s t a n v
  refine ⟨⟨?_, ?_⟩, ?_⟩
  · rintro ⟨t, h⟩
    obtain ⟨hfits, hclear, -⟩ := (hok t).1 h
    exact ⟨hfits, hclear⟩
  · rintro ⟨hfits, hclear⟩
    exact ⟨_, (hok _).2 ⟨hfits, hclear, rfl⟩⟩
  · intro t h
    obtain ⟨hfits, -, rfl⟩ := (hok t).1 h
    have hstored := stored_writeBytes (m := s.mem) (a := a) hv
    exact ⟨rfl, hstored, (memRead_eq_ok_iff _ _ _ _).2 ⟨hfits, hstored.1⟩⟩

/-! ### The condition table -/

theorem decode_branch_unlisted {c : BitVec 4} (hc : condOfCode c = none) (lay : EsLayout) (f2 f1 f0 : BitVec 3)
    (s : Half) : decode lay .normal (firstHalf 0b100#3 c f2 f1 f0) s = .unlisted := by
  simp [decode, decodeBranch, Mode.transferPrefix, hc]

/-- Settles O14: by the definition of the test, of the codes, and of the decoder's branches. -/
theorem conditionTable : Obligations.ConditionTable := by
  refine ⟨fun w => ?_, by decide, fun c hc lay f2 f1 s => ?_⟩
  · obtain ⟨c, v, r⟩ := w
    simp [condHolds]
  · have hskipped : ∀ c ∈ ([0o0#4, 0o11#4, 0o14#4, 0o15#4, 0o16#4] : List (BitVec 4)), condOfCode c = none := by
      decide
    exact ⟨hskipped c hc, decode_branch_unlisted (hskipped c hc) lay f2 f1 0#3 s⟩

end Sys2Proof.Addresses
end

section
/-! SUPPORT. Fetching: what a step makes of the bytes at `pc`, and where it cannot fetch them (20_memory.md R53,
60_exceptions.md section 1). -/

namespace Sys2Proof.Fetching

open Sys2Proof.Machine

/-- Settles O3: each table word is decoded by evaluation. -/
theorem wordsOfTheSpecDecode : Obligations.WordsOfTheSpecDecode := by
  unfold Obligations.WordsOfTheSpecDecode
  decide

/-! ### What a fetch finds -/

theorem readHalf {s : State} {a : Nat} {h : Half} (hfits : a + 2 ≤ s.addrLimit) (hh : Holds s.mem a 2 h.toNat) :
    memRead s a 2 = .ok h.toNat :=
  (memRead_eq_ok_iff _ _ _ _).2 ⟨hfits, hh⟩

theorem fetch_short {s : State} {h : Half} (hfits : s.pc.toNat + 2 ≤ s.addrLimit)
    (hh : Holds s.mem s.pc.toNat 2 h.toNat) (hn : needsSecond s.params.mode h = false) :
    fetch s = .ok ⟨h, none, decode s.params.esLayout s.params.mode h 0⟩ := by
  simp only [fetch, readHalf hfits hh, bind, Except.bind, BitVec.ofNat_toNat, BitVec.setWidth_eq, hn,
    Bool.false_eq_true, ↓reduceIte]

theorem fetch_long {s : State} {h e : Half} (hfits : s.pc.toNat + 4 ≤ s.addrLimit)
    (hh : Holds s.mem s.pc.toNat 2 h.toNat) (hn : needsSecond s.params.mode h = true)
    (he : Holds s.mem (s.pc.toNat + 2) 2 e.toNat) :
    fetch s = .ok ⟨h, some e, decode s.params.esLayout s.params.mode h e⟩ := by
  simp only [fetch, readHalf (by omega) hh, readHalf (by omega) he, bind, Except.bind, BitVec.ofNat_toNat,
    BitVec.setWidth_eq, hn, ↓reduceIte]

theorem fetch_first_stops {s : State} {why : Fault} (h : LoadStops s s.pc.toNat 2 why) : fetch s = .error why := by
  simp only [fetch, memRead_stops h, bind, Except.bind]

theorem fetch_second_stops {s : State} {h : Half} {why : Fault} (hfits : s.pc.toNat + 2 ≤ s.addrLimit)
    (hh : Holds s.mem s.pc.toNat 2 h.toNat) (hn : needsSecond s.params.mode h = true)
    (hstop : LoadStops s (s.pc.toNat + 2) 2 why) : fetch s = .error why := by
  simp only [fetch, readHalf hfits hh, memRead_stops hstop, bind, Except.bind, BitVec.ofNat_toNat,
    BitVec.setWidth_eq, hn, ↓reduceIte]

/-! ### What a step makes of it -/

section Step
variable {s : State} (hf : s.finished = false) (hm : s.params.mode ≠ .compact)
include hf hm

theorem step_of_fetch_error {why : Fault} (h : fetch s = .error why) : step s = .fault why := by
  simp only [step, hf, hm, h, Bool.false_eq_true, ↓reduceIte]

theorem step_of_unlisted {h : Half} {e : Option Half} (hw : fetch s = .ok ⟨h, e, .unlisted⟩) :
    step s = .refused (.unlistedEncoding h e) := by
  simp only [step, hf, hm, hw, Bool.false_eq_true, ↓reduceIte]

theorem step_of_reserved {h : Half} {e : Option Half} (hw : fetch s = .ok ⟨h, e, .reserved⟩) :
    step s = .refused (.reservedEncoding h e) := by
  simp only [step, hf, hm, hw, Bool.false_eq_true, ↓reduceIte]

theorem step_of_instr {h : Half} {e : Option Half} {i : Instr} (hw : fetch s = .ok ⟨h, e, .instr i⟩) :
    step s =
      match exec i s with
      | .next t => .next { t with finished := decide (t.params.endPc = some t.pc) }
      | .fault r => .fault r
      | .refused r => .refused r := by
  simp only [step, hf, hm, hw, Bool.false_eq_true, ↓reduceIte]
  cases exec i s <;> rfl

end Step

/-! ### From bytes to halfwords -/

theorem holds_halfOfBytes {m : Memory} {a : Nat} {hi lo : Byte} (h0 : m.read a = some hi)
    (h1 : m.read (a + 1) = some lo) : Holds m a 2 (halfOfBytes hi lo).toNat := by
  refine (m.readBytes_bigEndian_iff a 2 _).1 ⟨[hi, lo], by simp [Memory.readBytes, h0, h1], ?_⟩
  rw [halfOfBytes, toNat_append_add]
  simp [bigEndian]

/-- Bytes that decode to an instruction with none left over are its one or two halfwords. -/
theorem decodeBytes_eq_some {lay : EsLayout} {m : Mode} {bytes : List Byte} {i : Instr}
    (h : decodeBytes lay m bytes = some (.instr i, [])) :
    (∃ b0 b1, bytes = [b0, b1] ∧ needsSecond m (halfOfBytes b0 b1) = false ∧
        decode lay m (halfOfBytes b0 b1) 0#16 = .instr i) ∨
      (∃ b0 b1 b2 b3, bytes = [b0, b1, b2, b3] ∧ needsSecond m (halfOfBytes b0 b1) = true ∧
        decode lay m (halfOfBytes b0 b1) (halfOfBytes b2 b3) = .instr i) := by
  match bytes with
  | [] | [_] => cases h
  | b0 :: b1 :: rest =>
    simp only [decodeBytes] at h
    split at h
    case isTrue hn =>
      match rest with
      | [] | [_] => cases h
      | b2 :: b3 :: rest' =>
        simp only [Option.some.injEq, Prod.mk.injEq] at h
        obtain ⟨hd, rfl⟩ := h
        exact .inr ⟨b0, b1, b2, b3, rfl, hn, hd⟩
    case isFalse hn =>
      simp only [Option.some.injEq, Prod.mk.injEq] at h
      obtain ⟨hd, rfl⟩ := h
      exact .inl ⟨b0, b1, rfl, by simpa using hn, hd⟩

/-! ### The statements -/

/-- Settles O4: the bytes at `pc` are the halfwords that the fetch reads. -/
theorem stepRunsTheDecodedInstruction : Obligations.StepRunsTheDecodedInstruction := by
  intro s i bytes hf hm hdec hbytes hfits
  obtain ⟨b0, b1, rfl, hn, hd⟩ | ⟨b0, b1, b2, b3, rfl, hn, hd⟩ := decodeBytes_eq_some hdec
  · have hh := holds_halfOfBytes (hbytes 0 (by simp)) (hbytes 1 (by simp))
    have hw := fetch_short hfits hh hn
    rw [show decode _ _ _ 0 = .instr i from hd] at hw
    exact step_of_instr hf hm hw
  · have hh := holds_halfOfBytes (hbytes 0 (by simp)) (hbytes 1 (by simp))
    have he := holds_halfOfBytes (hbytes 2 (by simp)) (hbytes 3 (by simp))
    have hw := fetch_long hfits hh hn he
    rw [hd] at hw
    exact step_of_instr hf hm hw

/-- Settles O5: the tests that a step makes before it runs an instruction, in their order. -/
theorem stepStopsWhereNothingCanRun : Obligations.StepStopsWhereNothingCanRun := by
  refine ⟨fun s hf => ?_, fun s hf hm => ?_, fun s hf hm hfits hnone => ?_, fun s h hf hm hfits hh hn => ?_,
    fun s h e hf hm hfits hh hn he => ?_⟩
  · simp [step, hf]
  · simp [step, hf, hm]
  · apply step_of_fetch_error hf hm
    exact fetch_first_stops (.inr ⟨hfits, 0, by omega, fun k hk => by omega, hnone, rfl⟩)
  · have hw := fetch_short hfits hh hn
    exact ⟨fun hd => step_of_unlisted hf hm (hd ▸ hw), fun hd => step_of_reserved hf hm (hd ▸ hw)⟩
  · have hw := fetch_long hfits hh hn he
    exact ⟨fun hd => step_of_unlisted hf hm (hd ▸ hw), fun hd => step_of_reserved hf hm (hd ▸ hw)⟩

/-- Settles O56: what stops a read of a halfword stops the fetch, and with it the step. -/
theorem fetchesThatCannotBeMadeStop : Obligations.FetchesThatCannotBeMadeStop :=
  ⟨fun _ _ hf hm h => step_of_fetch_error hf hm (fetch_first_stops h),
    fun _ _ _ hf hm hfits hh hn h => step_of_fetch_error hf hm (fetch_second_stops hfits hh hn h)⟩

end Sys2Proof.Fetching
end

section
/-! SUPPORT. Loads and stores of registers (40_multiple_register.md): what each form leaves in its file and in memory,
for any file, and then for the file of each instruction. -/

namespace Sys2Proof.Ranges

open Sys2Proof.Machine

/-! ### A file of registers -/

/-- The registers `r1` to `r2` of a file of `new` hold what the memory of `s` holds from `ea` on, the others what
they hold in `old`. -/
structure FileLoaded (file : FileName) (s old new : State) (ea : Nat) (r1 r2 : RegNum) : Prop where
  inRange : ∀ q : RegNum, r1 ≤ q → q ≤ r2 →
    Holds s.mem (s.wrapAddr (ea + (q.toNat - r1.toNat) * s.elementBytes file)) (s.elementBytes file) (new.readFile file q)
  outside : ∀ q : RegNum, q < r1 ∨ r2 < q → new.readFile file q = old.readFile file q

/-- The memory `m` holds the registers `r1` to `r2` of a file of `s` from `ea` on, and is as in `s` elsewhere. -/
structure FileStored (file : FileName) (s : State) (m : Memory) (ea : Nat) (r1 r2 : RegNum) : Prop where
  inRange : ∀ q : RegNum, r1 ≤ q → q ≤ r2 →
    Holds m (s.wrapAddr (ea + (q.toNat - r1.toNat) * s.elementBytes file)) (s.elementBytes file) (s.readFile file q)
  outside : SameOutsideRange s m ea (s.elementBytes file) (rangeCount r1 r2)

theorem FileLoaded.rangeLoaded_x {s old new : State} {ea : Nat} {r1 r2 : RegNum}
    (h : FileLoaded .x s old new ea r1 r2) : RangeLoaded s ea 4 r1 r2 old.x new.x :=
  ⟨h.inRange, fun q hq => BitVec.eq_of_toNat_eq (h.outside q hq)⟩

theorem FileLoaded.rangeLoaded_b {s old new : State} {ea : Nat} {r1 r2 : RegNum}
    (h : FileLoaded .b s old new ea r1 r2) : RangeLoaded s ea s.addrBytes r1 r2 old.b new.b :=
  ⟨h.inRange, fun q hq => BitVec.eq_of_toNat_eq (h.outside q hq)⟩

theorem FileLoaded.rangeLoaded_f {s old new : State} {ea : Nat} {r1 r2 : RegNum}
    (h : FileLoaded .f s old new ea r1 r2) : RangeLoaded s ea 16 r1 r2 old.f new.f :=
  ⟨h.inRange, fun q hq => BitVec.eq_of_toNat_eq (h.outside q hq)⟩

theorem FileStored.rangeStored_x {s : State} {m : Memory} {ea : Nat} {r1 r2 : RegNum}
    (h : FileStored .x s m ea r1 r2) : RangeStored s m ea 4 r1 r2 s.x := ⟨h.inRange, h.outside⟩

theorem FileStored.rangeStored_b {s : State} {m : Memory} {ea : Nat} {r1 r2 : RegNum}
    (h : FileStored .b s m ea r1 r2) : RangeStored s m ea s.addrBytes r1 r2 s.b := ⟨h.inRange, h.outside⟩

theorem FileStored.rangeStored_f {s : State} {m : Memory} {ea : Nat} {r1 r2 : RegNum}
    (h : FileStored .f s m ea r1 r2) : RangeStored s m ea 16 r1 r2 s.f := ⟨h.inRange, h.outside⟩

/-- Every register of a file fits the bytes it takes in memory. -/
def FileStorable (file : FileName) (s : State) : Prop := ∀ q : RegNum, s.readFile file q < 256 ^ s.elementBytes file

theorem fileStorable_x (s : State) : FileStorable .x s := fun q => (s.x.read q).isLt

theorem fileStorable_f (s : State) : FileStorable .f s := fun q => (s.f.read q).isLt

theorem fileStorable_b {s : State} (h : FileFits s.addrLimit s.b) : FileStorable .b s :=
  fun q => (h q).trans_eq s.addrLimit_eq

theorem fileStorable_sb {s : State} (h : FileFits s.addrLimit s.sb) : FileStorable .sb s :=
  fun q => (h q).trans_eq s.addrLimit_eq

theorem fileStorable_psb {s : State} (h : FileFits s.addrLimit s.psb) : FileStorable .psb s :=
  fun q => (h q).trans_eq s.addrLimit_eq

theorem fileStorable_asb {s : State} (h : FileFits s.addrLimit s.asb) : FileStorable .asb s :=
  fun q => (h q).trans_eq s.addrLimit_eq

@[simp] theorem setB_elementBytes (s : State) (r : RegNum) (v : Addr) (file : FileName) :
    (s.setB r v).elementBytes file = s.elementBytes file := by
  cases file <;> rfl

@[simp] theorem setPc_readFile (s : State) (a : Addr) (file : FileName) (r : RegNum) :
    (s.setPc a).readFile file r = s.readFile file r := by
  cases file <;> rfl

section SameBut
variable {file : FileName} {s t : State}

theorem elementBytes_congr (h : t.params = s.params) : t.elementBytes file = s.elementBytes file := by
  cases file <;> simp only [State.elementBytes, State.addrBytes, h]

theorem wrapAddr_congr (h : t.params = s.params) (a : Nat) : t.wrapAddr a = s.wrapAddr a := by
  simp only [State.wrapAddr, State.addrLimit, h]

theorem sameBut_pc (h : SameBut file s t) : t.pc = s.pc := by
  cases file <;> simp only [SameBut] at h <;> rw [h]

theorem sameBut_params (h : SameBut file s t) : t.params = s.params := by
  cases file <;> simp only [SameBut] at h <;> rw [h]

theorem sameBut_mem (h : SameBut file s t) : t.mem = s.mem := by
  cases file <;> simp only [SameBut] at h <;> rw [h]

theorem sameBut_addrLimit (h : SameBut file s t) : t.addrLimit = s.addrLimit := by
  rw [State.addrLimit, State.addrLimit, sameBut_params h]

theorem sameBut_setPc (h : SameBut file s t) (a : Addr) : SameBut file (s.setPc a) (t.setPc a) := by
  cases file <;> simp only [SameBut] at * <;> rw [h] <;> rfl

end SameBut

/-- An ascending range ends within its file. -/
theorem rangeCount_le {r1 r2 : RegNum} (h : r1 ≤ r2) : r1.toNat + rangeCount r1 r2 = r2.toNat + 1 := by
  have : r1.toNat ≤ r2.toNat := h
  unfold rangeCount
  omega

theorem checkRange_ok (i : Instr) {r1 r2 : RegNum} (h : r1 ≤ r2) : checkRange i r1 r2 = .ok () :=
  (checkRange_eq_ok_iff i r1 r2 ()).2 h

section Range
variable {file : FileName} {r1 r2 : RegNum} {a : Nat} {s t : State}

theorem loadRange_loaded (hr : r1 ≤ r2) (h : loadRange file (rangeCount r1 r2) r1 a s = .ok t) :
    SameBut file s t ∧ FileLoaded file s s t a r1 r2 := by
  have hcount := rangeCount_le hr
  have hle := r2.isLt
  obtain ⟨-, hsame, hin, hout⟩ := loadRange_eq_ok h (by omega)
  refine ⟨hsame, ?_, ?_⟩
  · intro q h1 h2
    have : r1.toNat ≤ q.toNat := h1
    have : q.toNat ≤ r2.toNat := h2
    exact hin q (by omega)
  · intro q hq
    rw [BitVec.lt_def, BitVec.lt_def] at hq
    exact hout q (by omega)

theorem storeRange_stored (hr : r1 ≤ r2) (hs : FileStorable file s)
    (h : storeRange file (rangeCount r1 r2) r1 a s = .ok t) :
    RangeClear s a (s.elementBytes file) (rangeCount r1 r2) ∧ t = s.setMem t.mem ∧ FileStored file s t.mem a r1 r2 := by
  have hcount := rangeCount_le hr
  have hle := r2.isLt
  obtain ⟨hclear, hframe, hout, hin⟩ := storeRange_eq_ok h (by omega) hs
  refine ⟨hclear, hframe, ?_, hout⟩
  intro q h1 h2
  have : r1.toNat ≤ q.toNat := h1
  have : q.toNat ≤ r2.toNat := h2
  exact hin q (by omega)

/-- What has been stored there can be loaded from there. -/
theorem FileStored.rangeMapped {m : Memory} (hr : r1 ≤ r2) (h : FileStored file s m a r1 r2)
    (hclear : RangeClear s a (s.elementBytes file) (rangeCount r1 r2)) {u : State} (hm : u.mem = m)
    (hp : u.params = s.params) : RangeMapped u a (s.elementBytes file) (rangeCount r1 r2) := by
  have hcount := rangeCount_le hr
  have hle := r2.isLt
  have hlim : u.addrLimit = s.addrLimit := by rw [State.addrLimit, State.addrLimit, hp]
  intro j hj
  have hq : (BitVec.ofNat 3 (r1.toNat + j)).toNat = r1.toNat + j := by
    rw [BitVec.toNat_ofNat, Nat.mod_eq_of_lt (by omega)]
  have hholds := h.inRange (BitVec.ofNat 3 (r1.toNat + j)) (by rw [BitVec.le_def, hq]; omega)
    (by rw [BitVec.le_def, hq]; omega)
  rw [hq, Nat.add_sub_cancel_left] at hholds
  rw [State.wrapAddr, hlim, hm]
  exact ⟨(hclear j hj).1, hholds.mapped⟩

end Range

/-! ### Multiple-register loads and stores -/

section Multiple
variable {i : Instr} {file : FileName} {r1 r2 rB : RegNum} {addr : Half} {s t : State}

theorem loadMultiple_completes (hr : r1 ≤ r2) (hpc : s.pc.toNat + 4 < s.addrLimit)
    (hm : RangeMapped s (ea0 rB addr s).toNat (s.elementBytes file) (rangeCount r1 r2)) :
    ∃ t, outcomeOf (loadMultiple i file r1 r2 rB addr s) = .next t ∧ SameBut file (s.setPc (s.pc + 4)) t ∧
      FileLoaded file s s t (ea0 rB addr s).toNat r1 r2 := by
  obtain ⟨u, hu⟩ := loadRange_completes file (rangeCount r1 r2) r1 _ s hm
  obtain ⟨hsame, hloaded⟩ := loadRange_loaded hr hu
  have hadvance : advance 4 u = .ok (u.setPc (s.pc + 4)) :=
    (advance_eq_ok_iff _ _ _).2 ⟨by rwa [sameBut_pc hsame, sameBut_addrLimit hsame], by rw [sameBut_pc hsame]; rfl⟩
  refine ⟨u.setPc (s.pc + 4), outcomeOf_next ?_, sameBut_setPc hsame _, hloaded.inRange, ?_⟩
  · simp only [loadMultiple, checkRange_ok i hr, hu, hadvance, bind, Except.bind]
  · simpa using hloaded.outside

theorem storeMultiple_completes (hr : r1 ≤ r2) (hs : FileStorable file s) (hpc : s.pc.toNat + 4 < s.addrLimit)
    (hc : RangeClear s (ea0 rB addr s).toNat (s.elementBytes file) (rangeCount r1 r2)) :
    ∃ t, outcomeOf (storeMultiple i file r1 r2 rB addr s) = .next t ∧ t = { s with mem := t.mem, pc := s.pc + 4 } ∧
      FileStored file s t.mem (ea0 rB addr s).toNat r1 r2 := by
  obtain ⟨u, hu⟩ := storeRange_completes file (rangeCount r1 r2) r1 _ s hc
  obtain ⟨-, hframe, hstored⟩ := storeRange_stored hr hs hu
  have hadvance : advance 4 u = .ok { s with mem := u.mem, pc := s.pc + 4 } := by
    rw [hframe]
    exact (advance_eq_ok_iff _ _ _).2 ⟨hpc, rfl⟩
  refine ⟨{ s with mem := u.mem, pc := s.pc + 4 }, outcomeOf_next ?_, rfl, hstored⟩
  simp only [storeMultiple, checkRange_ok i hr, hu, hadvance, bind, Except.bind]

/-! ### The stack forms -/

theorem popMultiple_completes {e : Nat} (he : s.elementBytes file = e) (hr : r1 ≤ r2)
    (hpc : s.pc.toNat + 2 < s.addrLimit) (hlen : rangeCount r1 r2 * e ≤ (s.b.read 0).toNat)
    (hm : RangeMapped s ((s.b.read 0).toNat - rangeCount r1 r2 * e) e (rangeCount r1 r2)) :
    ∃ t sp, outcomeOf (popMultiple i file r1 r2 s) = .next t ∧
      sp.toNat = (s.b.read 0).toNat - rangeCount r1 r2 * e ∧
      SameBut file ((s.setB 0 sp).setPc (s.pc + 2)) t ∧ FileLoaded file s (s.setB 0 sp) t sp.toNat r1 r2 := by
  subst he
  obtain ⟨sp, hsp⟩ : ∃ sp, sp = s.b.read 0 - BitVec.ofNat 64 (rangeCount r1 r2 * s.elementBytes file) := ⟨_, rfl⟩
  have hspNat : sp.toNat = (s.b.read 0).toNat - rangeCount r1 r2 * s.elementBytes file := by
    rw [hsp]
    exact addr_sub_toNat hlen
  have hshrink : shrinkStack (rangeCount r1 r2 * s.elementBytes file) s = .ok (s.setB 0 sp) :=
    (shrinkStack_eq_ok_iff _ _ _).2 ⟨hlen, by rw [hsp]⟩
  rw [← hspNat] at hm
  obtain ⟨u, hu⟩ := loadRange_completes file (rangeCount r1 r2) r1 sp.toNat (s.setB 0 sp)
    (by simpa [RangeMapped] using hm)
  obtain ⟨hsame, hloaded⟩ := loadRange_loaded hr hu
  have hadvance : advance 2 u = .ok (u.setPc (s.pc + 2)) :=
    (advance_eq_ok_iff _ _ _).2 ⟨by rwa [sameBut_pc hsame, sameBut_addrLimit hsame], by rw [sameBut_pc hsame]; rfl⟩
  refine ⟨u.setPc (s.pc + 2), sp, outcomeOf_next ?_, hspNat, sameBut_setPc hsame _, ?_, ?_⟩
  · simp only [popMultiple, checkRange_ok i hr, hshrink, State.setB_b, RegFile.read_write_same, hu, hadvance, bind,
      Except.bind]
  · simpa using hloaded.inRange
  · simpa using hloaded.outside

theorem pushMultiple_completes {e : Nat} (he : s.elementBytes file = e) (hr : r1 ≤ r2)
    (hpc : s.pc.toNat + 2 < s.addrLimit) (hs : FileStorable file s)
    (hfits : (s.b.read 0).toNat + rangeCount r1 r2 * e < s.addrLimit)
    (hc : ClearOfText s (s.b.read 0).toNat (rangeCount r1 r2 * e)) :
    ∃ t, outcomeOf (pushMultiple i file r1 r2 s) = .next t := by
  subst he
  obtain ⟨u, hu⟩ := storeRange_completes file (rangeCount r1 r2) r1 _ s
    (hc.range (s.elementBytes_pos file) (Nat.le_of_lt hfits))
  obtain ⟨-, hframe, -⟩ := storeRange_stored hr hs hu
  have hgrow : growStack (rangeCount r1 r2 * s.elementBytes file) u =
      .ok (u.setB 0 (u.b.read 0 + BitVec.ofNat 64 (rangeCount r1 r2 * s.elementBytes file))) :=
    (growStack_eq_ok_iff _ _ _).2 ⟨by rw [hframe]; exact hfits, rfl⟩
  have hroom : u.pc.toNat + 2 < u.addrLimit := by rw [hframe]; exact hpc
  obtain ⟨t, hadvance⟩ :
      ∃ t, advance 2 (u.setB 0 (u.b.read 0 + BitVec.ofNat 64 (rangeCount r1 r2 * s.elementBytes file))) = .ok t :=
    ⟨_, (advance_eq_ok_iff _ _ _).2 ⟨hroom, rfl⟩⟩
  refine ⟨t, outcomeOf_next ?_⟩
  simp only [pushMultiple, checkRange_ok i hr, hu, hgrow, hadvance, bind, Except.bind]

/-- A completed PUSH has stored its range at the old `b[0]` and has raised `b[0]` by the length. -/
theorem pushMultiple_eq_ok {e : Nat} (he : s.elementBytes file = e) (hs : FileStorable file s)
    (h : pushMultiple i file r1 r2 s = .ok t) :
    r1 ≤ r2 ∧ RangeClear s (s.b.read 0).toNat e (rangeCount r1 r2) ∧
      t = { s with mem := t.mem, b := s.b.write 0 (t.b.read 0), pc := s.pc + 2 } ∧
      (t.b.read 0).toNat = (s.b.read 0).toNat + rangeCount r1 r2 * e ∧
      FileStored file s t.mem (s.b.read 0).toNat r1 r2 := by
  subst he
  simp only [pushMultiple, Except.bind_eq_ok_iff, checkRange_eq_ok_iff, growStack_eq_ok_iff, advance_eq_ok_iff] at h
  obtain ⟨-, hr, u, hu, v, ⟨hgrow, rfl⟩, -, rfl⟩ := h
  obtain ⟨hclear, hframe, hstored⟩ := storeRange_stored hr hs hu
  have hb : u.b = s.b := by rw [hframe]; rfl
  have hlim : u.addrLimit = s.addrLimit := by rw [hframe]; rfl
  have hpc : u.pc = s.pc := by rw [hframe]; rfl
  have hle := s.addrLimit_le
  rw [hb, hlim] at hgrow
  refine ⟨hr, hclear, ?_, ?_, hstored⟩
  · simp only [State.setPc_b, State.setPc_mem, State.setB_b, State.setB_mem, State.setB_pc, RegFile.read_write_same, hb,
      hpc]
    rw [hframe]
    rfl
  · simp only [State.setPc_b, State.setB_b, RegFile.read_write_same, hb]
    exact addr_add_toNat (by omega)

end Multiple

/-- Settles O17: the range is loaded from EA0 of the state before, whichever file it is. -/
theorem loadMultipleFromMemory : Obligations.LoadMultipleFromMemory := by
  refine ⟨fun r1 r2 rB addr s hr hpc hm => ?_, fun r1 r2 rB addr s hr hpc hm => ?_,
    fun r1 r2 rB addr s hr hpc hm => ?_⟩
  · obtain ⟨t, hexec, hframe, hloaded⟩ := loadMultiple_completes (i := .lmu r1 r2 rB addr) (file := .x) hr hpc hm
    exact ⟨t, hexec, hframe, hloaded.rangeLoaded_x⟩
  · obtain ⟨t, hexec, hframe, hloaded⟩ := loadMultiple_completes (i := .lmubr r1 r2 rB addr) (file := .b) hr hpc hm
    exact ⟨t, hexec, hframe, hloaded.rangeLoaded_b⟩
  · obtain ⟨t, hexec, hframe, hloaded⟩ := loadMultiple_completes (i := .lmuq r1 r2 rB addr) (file := .f) hr hpc hm
    exact ⟨t, hexec, hframe, hloaded.rangeLoaded_f⟩

/-- Settles O18: the range is stored from EA0 on, whichever file it is. -/
theorem storeMultipleToMemory : Obligations.StoreMultipleToMemory := by
  refine ⟨fun r1 r2 rB addr s hr hpc hc => ?_, fun r1 r2 rB addr s hb hr hpc hc => ?_,
    fun r1 r2 rB addr s hr hpc hc => ?_⟩
  · obtain ⟨t, hexec, hframe, hstored⟩ :=
      storeMultiple_completes (i := .stmu r1 r2 rB addr) hr (fileStorable_x s) hpc hc
    exact ⟨t, hexec, hframe, hstored.rangeStored_x⟩
  · obtain ⟨t, hexec, hframe, hstored⟩ :=
      storeMultiple_completes (i := .stmubr r1 r2 rB addr) hr (fileStorable_b hb) hpc hc
    exact ⟨t, hexec, hframe, hstored.rangeStored_b⟩
  · obtain ⟨t, hexec, hframe, hstored⟩ :=
      storeMultiple_completes (i := .stmuq r1 r2 rB addr) hr (fileStorable_f s) hpc hc
    exact ⟨t, hexec, hframe, hstored.rangeStored_f⟩

/-- A POP of base registers that does not begin at `b[0]` is like the others (R146). -/
theorem exec_lmubrPop {r1 r2 : RegNum} (h0 : r1 ≠ 0) (hr : r1 ≤ r2) (s : State) :
    exec (.lmubrPop r1 r2) s = outcomeOf (popMultiple (.lmubrPop r1 r2) .b r1 r2 s) := by
  change outcomeOf (checkRange _ r1 r2 >>= fun _ => checkNoStackPointer _ r1 r2 >>= fun _ => _) = _
  rw [checkRange_ok _ hr, checkNoStackPointer, if_neg h0]
  rfl

theorem b0_outside {r1 r2 : RegNum} (h0 : r1 ≠ 0) : (0 : RegNum) < r1 ∨ r2 < 0 := by
  left
  have : r1.toNat ≠ 0 := fun h => h0 (BitVec.eq_of_toNat_eq h)
  rw [BitVec.lt_def]
  exact Nat.pos_of_ne_zero this

/-- Settles O19: `b[0]` is lowered first, and the range is loaded from where it then points. -/
theorem popsLowerTheStackAndLoad : Obligations.PopsLowerTheStackAndLoad := by
  refine ⟨fun r1 r2 s hb hr hpc hlen hm => ?_, fun r1 r2 s hb h0 hr hpc hlen hm => ?_,
    fun r1 r2 s hb hr hpc hlen hm => ?_⟩
  · obtain ⟨t, sp, hexec, hsp, hframe, hloaded⟩ :=
      popMultiple_completes (i := .lmuPop r1 r2) (file := .x) (e := 4) rfl hr hpc hlen
        (hm.range (by decide) (by omega))
    have ht : t.b.read 0 = sp := by rw [hframe]; exact RegFile.read_write_same _ _ _
    subst ht
    refine ⟨t, hexec, hframe, hsp, ?_⟩
    rw [← hsp]
    exact hloaded.rangeLoaded_x
  · obtain ⟨t, sp, hexec, hsp, hframe, hloaded⟩ :=
      popMultiple_completes (i := .lmubrPop r1 r2) (file := .b) (e := s.addrBytes) rfl hr hpc hlen
        (hm.range s.addrBytes_pos (by omega))
    have ht : t.b.read 0 = sp := by
      refine BitVec.eq_of_toNat_eq ((hloaded.outside 0 (b0_outside h0)).trans ?_)
      exact congrArg BitVec.toNat (RegFile.read_write_same _ _ _)
    subst ht
    refine ⟨t, (exec_lmubrPop h0 hr s).trans hexec, hframe, hsp, ?_⟩
    rw [← hsp]
    exact hloaded.rangeLoaded_b
  · obtain ⟨t, sp, hexec, hsp, hframe, hloaded⟩ :=
      popMultiple_completes (i := .lmuqPop r1 r2) (file := .f) (e := 16) rfl hr hpc hlen
        (hm.range (by decide) (by omega))
    have ht : t.b.read 0 = sp := by rw [hframe]; exact RegFile.read_write_same _ _ _
    subst ht
    refine ⟨t, hexec, hframe, hsp, ?_⟩
    rw [← hsp]
    exact hloaded.rangeLoaded_f

/-- Settles O20: the range is stored at the old `b[0]`, which is then raised. -/
theorem pushesStoreAndRaiseTheStack : Obligations.PushesStoreAndRaiseTheStack := by
  refine ⟨fun r1 r2 s hr hpc hfits hc => ?_, fun r1 r2 s hb hr hpc hfits hc => ?_,
    fun r1 r2 s hr hpc hfits hc => ?_⟩
  · obtain ⟨t, hexec⟩ :=
      pushMultiple_completes (i := .stmuPush r1 r2) (e := 4) rfl hr hpc (fileStorable_x s) hfits hc
    obtain ⟨-, -, hframe, hsp, hstored⟩ :=
      pushMultiple_eq_ok (e := 4) rfl (fileStorable_x s) ((outcomeOf_eq_next_iff _ _).1 hexec)
    exact ⟨t, hexec, hframe, hsp, hstored.rangeStored_x⟩
  · obtain ⟨t, hexec⟩ :=
      pushMultiple_completes (i := .stmubrPush r1 r2) (e := s.addrBytes) rfl hr hpc (fileStorable_b hb) hfits hc
    obtain ⟨-, -, hframe, hsp, hstored⟩ :=
      pushMultiple_eq_ok (e := s.addrBytes) rfl (fileStorable_b hb) ((outcomeOf_eq_next_iff _ _).1 hexec)
    exact ⟨t, hexec, hframe, hsp, hstored.rangeStored_b⟩
  · obtain ⟨t, hexec⟩ :=
      pushMultiple_completes (i := .stmuqPush r1 r2) (e := 16) rfl hr hpc (fileStorable_f s) hfits hc
    obtain ⟨-, -, hframe, hsp, hstored⟩ :=
      pushMultiple_eq_ok (e := 16) rfl (fileStorable_f s) ((outcomeOf_eq_next_iff _ _).1 hexec)
    exact ⟨t, hexec, hframe, hsp, hstored.rangeStored_f⟩

/-! ### A POP after a PUSH -/

section PopAfterPush
variable {i j : Instr} {file : FileName} {r1 r2 : RegNum} {s t u : State}

/-- Wherever memory and `b[0]` are as a PUSH left them, a POP of its range gives the range the values it had before
the PUSH, and `b[0]` its value from then: each register's place in memory is the same for both. -/
theorem popMultiple_after_pushMultiple (hs : FileStorable file s) (hpush : pushMultiple i file r1 r2 s = .ok t)
    (hmem : u.mem = t.mem) (hparams : u.params = t.params) (hsp : u.b.read 0 = t.b.read 0)
    (hpc : u.pc.toNat + 2 < u.addrLimit) :
    ∃ w, outcomeOf (popMultiple j file r1 r2 u) = .next w ∧ SameBut file ((u.setB 0 (s.b.read 0)).setPc (u.pc + 2)) w ∧
      (∀ q : RegNum, r1 ≤ q → q ≤ r2 → w.readFile file q = s.readFile file q) ∧
      (∀ q : RegNum, q < r1 ∨ r2 < q → w.readFile file q = (u.setB 0 (s.b.read 0)).readFile file q) := by
  obtain ⟨hr, hclear, hframe, htop, hstored⟩ := pushMultiple_eq_ok rfl hs hpush
  have hp : u.params = s.params := hparams.trans (by rw [hframe])
  have he : u.elementBytes file = s.elementBytes file := elementBytes_congr hp
  have hdown : (u.b.read 0).toNat - rangeCount r1 r2 * s.elementBytes file = (s.b.read 0).toNat := by
    rw [hsp, htop, Nat.add_sub_cancel]
  obtain ⟨w, sp, hexec, hspNat, hsame, hloaded⟩ := popMultiple_completes (i := j) he hr hpc
    (by rw [hsp, htop]; exact Nat.le_add_left _ _) (by rw [hdown]; exact hstored.rangeMapped hr hclear hmem hp)
  obtain rfl : sp = s.b.read 0 := BitVec.eq_of_toNat_eq (hspNat.trans hdown)
  refine ⟨w, hexec, hsame, fun q h1 h2 => ?_, hloaded.outside⟩
  have hnew := hloaded.inRange q h1 h2
  rw [he, wrapAddr_congr hp, hmem] at hnew
  exact hnew.unique (hstored.inRange q h1 h2)

end PopAfterPush

/-- Settles O21: a change of the popped file leaves memory and `b[0]` as the PUSH left them. -/
theorem popRestoresWhatPushSaved : Obligations.PopRestoresWhatPushSaved := by
  refine ⟨fun r1 r2 s t u _ hexec hu hpc => ?_, fun r1 r2 s t u hb h0 hexec hu hsp hpc => ?_,
    fun r1 r2 s t u _ hexec hu hpc => ?_⟩
  · have hpush := (outcomeOf_eq_next_iff _ _).1 hexec
    obtain ⟨w, hpop, hsame, hin, -⟩ := popMultiple_after_pushMultiple (j := .lmuPop r1 r2) (u := u) (fileStorable_x s)
      hpush (by rw [hu]) (by rw [hu]) (by rw [hu]) hpc
    refine ⟨w, hpop, ?_, (sameBut_mem hsame).trans (by rw [hu]; rfl), fun r h1 h2 => ?_⟩
    · rw [hsame]
      exact RegFile.read_write_same _ _ _
    · exact BitVec.eq_of_toNat_eq (hin r h1 h2)
  · have hpush := (outcomeOf_eq_next_iff _ _).1 hexec
    obtain ⟨hr, -⟩ := pushMultiple_eq_ok rfl (fileStorable_b hb) hpush
    obtain ⟨w, hpop, hsame, hin, hout⟩ := popMultiple_after_pushMultiple (j := .lmubrPop r1 r2) (u := u)
      (fileStorable_b hb) hpush (by rw [hu]) (by rw [hu]) hsp hpc
    refine ⟨w, (exec_lmubrPop h0 hr u).trans hpop, ?_, (sameBut_mem hsame).trans (by rw [hu]; rfl), fun r h1 h2 => ?_⟩
    · refine BitVec.eq_of_toNat_eq ((hout 0 (b0_outside h0)).trans ?_)
      exact congrArg BitVec.toNat (RegFile.read_write_same _ _ _)
    · exact BitVec.eq_of_toNat_eq (hin r h1 h2)
  · have hpush := (outcomeOf_eq_next_iff _ _).1 hexec
    obtain ⟨w, hpop, hsame, hin, -⟩ := popMultiple_after_pushMultiple (j := .lmuqPop r1 r2) (u := u) (fileStorable_f s)
      hpush (by rw [hu]) (by rw [hu]) (by rw [hu]) hpc
    refine ⟨w, hpop, ?_, (sameBut_mem hsame).trans (by rw [hu]; rfl), fun r h1 h2 => ?_⟩
    · rw [hsame]
      exact RegFile.read_write_same _ _ _
    · exact BitVec.eq_of_toNat_eq (hin r h1 h2)

/-! ### Supplementary loads and stores -/

section Supplementary
variable {file : FileName} {r rB : RegNum} {addr : Half} {s : State}

theorem loadOne_completes {v : Nat} (hpc : s.pc.toNat + 4 < s.addrLimit)
    (hfits : (ea0 rB addr s).toNat + s.elementBytes file ≤ s.addrLimit)
    (hv : Holds s.mem (ea0 rB addr s).toNat (s.elementBytes file) v) :
    outcomeOf (loadOne file r rB addr s) = .next ((s.writeFile file r v).setPc (s.pc + 4)) := by
  apply outcomeOf_next
  simp only [loadOne, (memRead_eq_ok_iff _ _ _ _).2 ⟨hfits, hv⟩, bind, Except.bind]
  exact (advance_eq_ok_iff _ _ _).2 ⟨by simpa using hpc, by rw [State.writeFile_pc]; rfl⟩

theorem storeOne_completes (hs : FileStorable file s) (hpc : s.pc.toNat + 4 < s.addrLimit)
    (hfits : (ea0 rB addr s).toNat + s.elementBytes file ≤ s.addrLimit)
    (hclear : ClearOfText s (ea0 rB addr s).toNat (s.elementBytes file)) :
    ∃ m, outcomeOf (storeOne file r rB addr s) = .next { s with mem := m, pc := s.pc + 4 } ∧
      Stored s.mem m (ea0 rB addr s).toNat (s.elementBytes file) (s.readFile file r) := by
  refine ⟨_, outcomeOf_next ?_, stored_writeBytes (hs r)⟩
  simp only [storeOne, (memWrite_eq_ok_iff _ _ _ _ _).2 ⟨hfits, hclear, rfl⟩, bind, Except.bind]
  exact (advance_eq_ok_iff _ _ _).2 ⟨hpc, rfl⟩

end Supplementary

/-- Settles O22: the word at EA0 is loaded into the file of each instruction. -/
theorem supplementaryLoads : Obligations.SupplementaryLoads := by
  refine ⟨fun r rB addr s v hpc hfits hv => ?_, fun r rB addr s v hpc hfits hv => ?_,
    fun r rB addr s v hpc hfits hv => ?_, fun r rB addr s v hpc hfits hv => ?_⟩
  · refine (loadOne_completes (file := .b) hpc hfits hv).trans ?_
    simp [State.writeFile, State.setB, State.setPc]
  · refine (loadOne_completes (file := .sb) hpc hfits hv).trans ?_
    simp [State.writeFile, State.setSb, State.setPc]
  · refine (loadOne_completes (file := .psb) hpc hfits hv).trans ?_
    simp [State.writeFile, State.setPsb, State.setPc]
  · refine (loadOne_completes (file := .asb) hpc hfits hv).trans ?_
    simp [State.writeFile, State.setAsb, State.setPc]

/-- Settles O23: the register of each instruction's file is stored at EA0. -/
theorem supplementaryStores : Obligations.SupplementaryStores :=
  ⟨fun _ _ _ _ hb => storeOne_completes (fileStorable_b hb), fun _ _ _ _ hb => storeOne_completes (fileStorable_sb hb),
    fun _ _ _ _ hb => storeOne_completes (fileStorable_psb hb),
    fun _ _ _ _ hb => storeOne_completes (fileStorable_asb hb)⟩

end Sys2Proof.Ranges
end

section
/-! SUPPORT. Jumps, branches, calls and returns (41_jumps.md, 44_branch_return.md): where each goes on, what a call
saves, and that a return finds it again. -/

namespace Sys2Proof.Transfers

open Sys2Proof.Machine Sys2Proof.Addresses

/-! ### The next instruction and the target -/

theorem next_toNat {s : State} {len : Nat} (h : s.pc.toNat + len < s.addrLimit) :
    (s.pc + BitVec.ofNat 64 len).toNat = s.pc.toNat + len :=
  addr_add_toNat (Nat.lt_of_lt_of_le h s.addrLimit_le)

theorem nextAddr_completes {s : State} {len : Nat} (h : s.pc.toNat + len < s.addrLimit) :
    nextAddr s len = .ok (s.pc + BitVec.ofNat 64 len) :=
  (nextAddr_eq_ok_iff _ _ _).2 ⟨h, rfl⟩

theorem jumpTarget_completes {rX rB : RegNum} {addr : Half} {s : State} {a : Addr} (h : JumpsTo s rX rB addr a) :
    jumpTarget rX rB addr s = .ok a :=
  (jumpTarget_eq_ok_iff _ _ _ _ _ h.lt).2 h

/-! ### Conditional jumps, branches and returns -/

/-- Settles O24. -/
theorem jumpsOnTheStatusWord : Obligations.JumpsOnTheStatusWord := by
  intro j hj rX rB addr s
  fin_cases hj <;> exact condJump_spec _ s.sw rX rB addr s

/-- Settles O25. -/
theorem jumpsOnTheSavedStatus : Obligations.JumpsOnTheSavedStatus := by
  intro j hj rX rB addr s
  fin_cases hj <;> exact condJump_spec _ s.ssw rX rB addr s

/-- Settles O30. -/
theorem longBranches : Obligations.LongBranches := by
  intro j hj disp s
  fin_cases hj <;> exact longBranch_spec _ disp s

/-- Settles O31. -/
theorem shortBranches : Obligations.ShortBranches := by
  intro j hj disp s
  fin_cases hj <;> exact branch_spec _ disp s

/-- Settles O32. -/
theorem returnsPopTheProgramCounter : Obligations.ReturnsPopTheProgramCounter := by
  intro j hj s
  fin_cases hj <;> exact returnIf_spec _ s

/-! ### Calls -/

theorem saveReturn_link {rR : RegNum} (h : rR ≠ 0) (next : Addr) (s : State) :
    saveReturn rR next s = .ok (s.setB rR next) :=
  (saveReturn_eq_ok_iff _ _ _ _).2 (.inl ⟨h, rfl⟩)

/-- The return address is pushed as a word of `ADDR_BYTES` bytes. -/
theorem saveReturn_push {next : Addr} {s : State} (hn : next.toNat < s.addrLimit)
    (hfits : (s.b.read 0).toNat + s.addrBytes < s.addrLimit) (hclear : ClearOfText s (s.b.read 0).toNat s.addrBytes) :
    ∃ m sp, saveReturn 0 next s = .ok { s with mem := m, b := s.b.write 0 sp } ∧
      sp.toNat = (s.b.read 0).toNat + s.addrBytes ∧ Stored s.mem m (s.b.read 0).toNat s.addrBytes next.toNat := by
  have hle := s.addrLimit_le
  rw [s.addrLimit_eq] at hn
  exact ⟨_, _, (saveReturn_eq_ok_iff _ _ _ _).2 (.inr ⟨rfl, hfits, hclear, rfl⟩), addr_add_toNat (by omega),
    stored_writeBytes hn⟩

/-- A return address can be saved in a register, and pushed where there is room for it. -/
theorem saveReturn_completes {rR : RegNum} {s : State} (next : Addr)
    (hroom : rR = 0 → (s.b.read 0).toNat + s.addrBytes < s.addrLimit ∧ ClearOfText s (s.b.read 0).toNat s.addrBytes) :
    ∃ u, saveReturn rR next s = .ok u := by
  by_cases h0 : rR = 0
  · obtain ⟨hfits, hclear⟩ := hroom h0
    exact ⟨_, (saveReturn_eq_ok_iff _ _ _ _).2 (.inr ⟨h0, hfits, hclear, rfl⟩)⟩
  · exact ⟨_, saveReturn_link h0 next s⟩

section Calls
variable {rR rX rB : RegNum} {addr disp : Half} {s u : State} {a : Addr}

theorem jumpSubroutine_eq (hj : JumpsTo s rX rB addr a) (hpc : s.pc.toNat + 4 < s.addrLimit)
    (hsave : saveReturn rR (s.pc + 4) s = .ok u) : jumpSubroutine rR rX rB addr s = transferTo a u := by
  simp only [jumpSubroutine, jumpTarget_completes hj, nextAddr_completes hpc, bind, Except.bind]
  exact congrArg (fun r => Except.bind r (transferTo a)) hsave

theorem branchSubroutine_eq (hpc : s.pc.toNat + 4 < s.addrLimit) (hsave : saveReturn rR (s.pc + 4) s = .ok u) :
    branchSubroutine rR disp s = (relativeTarget s 4 disp.toInt >>= fun t => transferTo t u) := by
  simp only [branchSubroutine, nextAddr_completes hpc, bind, Except.bind]
  exact congrArg (fun r => Except.bind r fun s' => Except.bind (relativeTarget s 4 disp.toInt) fun t => transferTo t s')
    hsave

theorem exec_jms_completes (hj : JumpsTo s rX rB addr a) (ha : a.getLsbD 0 = false) (hpc : s.pc.toNat + 4 < s.addrLimit)
    (hsave : saveReturn rR (s.pc + 4) s = .ok u) : exec (.jms rR rX rB addr) s = .next (u.setPc a) :=
  outcomeOf_next ((jumpSubroutine_eq hj hpc hsave).trans (transferTo_completes ha))

theorem exec_lbrs_completes (heven : s.pc.getLsbD 0 = false) (hpc : s.pc.toNat + 4 < s.addrLimit)
    (ha : (a.toNat : Int) = s.pc.toNat + 4 + 2 * disp.toInt) (hlt : a.toNat < s.addrLimit)
    (hsave : saveReturn rR (s.pc + 4) s = .ok u) : exec (.lbrs rR disp) s = .next (u.setPc a) := by
  apply outcomeOf_next
  rw [branchSubroutine_eq hpc hsave, relativeTarget_completes ha hlt]
  exact transferTo_completes (relative_even (len := 4) ha heven rfl)

end Calls

/-- Settles O26: the return address is saved in the link register, or pushed. -/
theorem jumpToSubroutineSavesTheReturnAddress : Obligations.JumpToSubroutineSavesTheReturnAddress := by
  refine ⟨fun rR rX rB addr s a h0 hj ha hpc => ?_, fun rX rB addr s a hj ha hpc hfits hclear => ?_⟩
  · exact exec_jms_completes hj ha hpc (saveReturn_link h0 _ s)
  · have hnext : (s.pc + 4).toNat = s.pc.toNat + 4 := next_toNat hpc
    obtain ⟨m, sp, hsave, hsp, hstored⟩ := saveReturn_push (next := s.pc + 4) (by omega) hfits hclear
    exact ⟨m, sp, exec_jms_completes hj ha hpc hsave, hsp, hnext ▸ hstored⟩

/-- Settles O27: the return address is saved in the link register, or pushed. -/
theorem longBranchToSubroutineSavesTheReturnAddress : Obligations.LongBranchToSubroutineSavesTheReturnAddress := by
  intro rR disp s a heven hpc ha hlt
  refine ⟨fun h0 => ?_, fun h0 hfits hclear => ?_⟩
  · exact exec_lbrs_completes heven hpc ha hlt (saveReturn_link h0 _ s)
  · subst h0
    have hnext : (s.pc + 4).toNat = s.pc.toNat + 4 := next_toNat hpc
    obtain ⟨m, sp, hsave, hsp, hstored⟩ := saveReturn_push (next := s.pc + 4) (by omega) hfits hclear
    exact ⟨m, sp, exec_lbrs_completes heven hpc ha hlt hsave, hsp, hnext ▸ hstored⟩

/-! ### A return after a call -/

/-- A completed call: the return address saved, and `pc` somewhere else. -/
def Called (rR : RegNum) (s t : State) : Prop :=
  s.pc.toNat + 4 < s.addrLimit ∧ ∃ u a, saveReturn rR (s.pc + 4) s = .ok u ∧ t = u.setPc a

theorem called_of_jms {rR rX rB : RegNum} {addr : Half} {s t : State} (h : exec (.jms rR rX rB addr) s = .next t) :
    Called rR s t := by
  have hok : jumpSubroutine rR rX rB addr s = .ok t := (outcomeOf_eq_next_iff _ _).1 h
  simp only [jumpSubroutine, Except.bind_eq_ok_iff, nextAddr_eq_ok_iff, transferTo_eq_ok_iff] at hok
  obtain ⟨a, -, next, ⟨hpc, rfl⟩, u, hsave, -, rfl⟩ := hok
  exact ⟨hpc, u, a, hsave, rfl⟩

theorem called_of_lbrs {rR : RegNum} {disp : Half} {s t : State} (h : exec (.lbrs rR disp) s = .next t) :
    Called rR s t := by
  have hok : branchSubroutine rR disp s = .ok t := (outcomeOf_eq_next_iff _ _).1 h
  simp only [branchSubroutine, Except.bind_eq_ok_iff, nextAddr_eq_ok_iff, transferTo_eq_ok_iff] at hok
  obtain ⟨next, ⟨hpc, rfl⟩, u, hsave, a, -, -, rfl⟩ := hok
  exact ⟨hpc, u, a, hsave, rfl⟩

theorem called_of_call {rR : RegNum} {s t : State}
    (h : (∃ rX rB addr, exec (.jms rR rX rB addr) s = .next t) ∨ (∃ disp, exec (.lbrs rR disp) s = .next t)) :
    Called rR s t := by
  obtain ⟨rX, rB, addr, h⟩ | ⟨disp, h⟩ := h
  · exact called_of_jms h
  · exact called_of_lbrs h

theorem returnAddress_even {s : State} (heven : s.pc.getLsbD 0 = false) (hpc : s.pc.toNat + 4 < s.addrLimit) :
    (s.pc + 4).getLsbD 0 = false := by
  rw [addr_even_iff] at *
  have : (s.pc + 4).toNat = s.pc.toNat + 4 := next_toNat hpc
  omega

/-- After a stack call the pushed word lies just below `b[0]`. -/
theorem Called.stack {s t : State} (h : Called 0 s t) :
    (t.b.read 0).toNat = (s.b.read 0).toNat + s.addrBytes ∧ (t.b.read 0).toNat < s.addrLimit ∧
      Holds t.mem (s.b.read 0).toNat s.addrBytes (s.pc + 4).toNat ∧ t.params = s.params ∧
      ∀ r, r ≠ 0 → t.b.read r = s.b.read r := by
  obtain ⟨hpc, u, a, hsave, rfl⟩ := h
  obtain ⟨h0, -⟩ | ⟨-, hfits, hclear, rfl⟩ := (saveReturn_eq_ok_iff _ _ _ _).1 hsave
  · exact absurd rfl h0
  · have hle := s.addrLimit_le
    have hnext : (s.pc + 4).toNat = s.pc.toNat + 4 := next_toNat hpc
    have hlt : (s.pc + 4).toNat < 256 ^ s.addrBytes := by
      rw [← s.addrLimit_eq]
      omega
    have hsp : (s.b.read 0 + BitVec.ofNat 64 s.addrBytes).toNat = (s.b.read 0).toNat + s.addrBytes :=
      addr_add_toNat (by omega)
    simp only [State.setPc_b, State.setB_b, State.setMem_b, RegFile.read_write_same, hsp]
    obtain ⟨hholds, -⟩ := stored_writeBytes (m := s.mem) (a := (s.b.read 0).toNat) hlt
    exact ⟨trivial, hfits, hholds, rfl, fun r hr => RegFile.read_write_other _ _ hr⟩

/-- After a call through a link register, that register holds the return address. -/
theorem Called.link {rR : RegNum} {s t : State} (h0 : rR ≠ 0) (h : Called rR s t) :
    t.b.read rR = s.pc + 4 ∧ t.params = s.params := by
  obtain ⟨-, u, a, hsave, rfl⟩ := h
  rw [saveReturn_link h0] at hsave
  cases hsave
  exact ⟨RegFile.read_write_same _ _ _, rfl⟩

/-- Settles O33: the word that the return pops is the one the call pushed. -/
theorem returnUndoesAStackCall : Obligations.ReturnUndoesAStackCall := by
  intro s t hs hcall
  have hcalled := called_of_call hcall
  obtain ⟨hsp, hlt, hholds, hparams, hother⟩ := hcalled.stack
  have hbytes : t.addrBytes = s.addrBytes := by rw [State.addrBytes, State.addrBytes, hparams]
  have hlimit : t.addrLimit = s.addrLimit := by rw [State.addrLimit, State.addrLimit, hparams]
  have hdown : (t.b.read 0).toNat - t.addrBytes = (s.b.read 0).toNat := by omega
  obtain ⟨hreturn, -⟩ := returnIf_spec .always t
  obtain ⟨hpopped, -⟩ := hreturn (s.pc + 4) rfl (by omega) (by omega) (by rw [hdown, hbytes]; exact hholds)
  obtain ⟨sp, hexec, hspNat⟩ := hpopped (returnAddress_even hs.pcEven hcalled.1)
  have hb : t.b.write 0 sp = s.b := by
    apply RegFile.ext_read
    intro r
    rw [RegFile.read_write]
    split
    case isTrue h0 =>
      rw [h0]
      exact BitVec.eq_of_toNat_eq (hspNat.trans hdown)
    case isFalse h0 => exact hother r h0
  rw [hb] at hexec
  exact hexec

/-- Settles O34: the link register, with address field zero, is the target. -/
theorem jumpThroughTheLinkRegisterReturns : Obligations.JumpThroughTheLinkRegisterReturns := by
  intro s t rR hs h0 hcall
  have hcalled := called_of_call hcall
  obtain ⟨hlink, hparams⟩ := hcalled.link h0
  have hpc := hcalled.1
  have hnext : (s.pc + 4).toNat = s.pc.toNat + 4 := next_toNat hpc
  have htarget : s.pc + 4 = ea0 rR 0 t := by
    apply BitVec.eq_of_toNat_eq
    have hlimit : t.addrLimit = s.addrLimit := by rw [State.addrLimit, State.addrLimit, hparams]
    rw [ea0_toNat, hlink, hlimit, hnext]
    exact (Nat.mod_eq_of_lt hpc).symm
  exact (condJump_spec .always t.sw 0 rR 0 t).1 _ rfl (.inl ⟨rfl, htarget⟩) (returnAddress_even hs.pcEven hpc)

/-! ### Count-and-compare jumps and branches -/

theorem countMet_high (cR lR : RegNum) (s : State) :
    countMet true cR lR s = true ↔ (s.x.read lR).toInt < (s.x.read cR).toInt := by
  simp [countMet, BitVec.slt]

theorem countMet_lowOrEqual (cR lR : RegNum) (s : State) :
    countMet false cR lR s = true ↔ (s.x.read cR).toInt ≤ (s.x.read lR).toInt := by
  simp [countMet, BitVec.sle]

section Count
variable {down : Bool} {cR lR rB : RegNum} {addr disp : Half} {s : State}

theorem countJump_taken (hm : countMet down cR lR (stepCount down cR s) = true) :
    countJump down cR lR rB addr s = transferTo (ea0 rB addr s) (stepCount down cR s) :=
  if_pos hm

theorem countJump_next (hm : ¬ countMet down cR lR (stepCount down cR s) = true) :
    countJump down cR lR rB addr s = advance 4 (stepCount down cR s) :=
  if_neg hm

theorem countBranch_taken (hm : countMet down cR lR (stepCount down cR s) = true) :
    countBranch down cR lR disp s =
      (relativeTarget s 4 disp.toInt >>= fun t => transferTo t (stepCount down cR s)) :=
  if_pos hm

theorem countBranch_next (hm : ¬ countMet down cR lR (stepCount down cR s) = true) :
    countBranch down cR lR disp s = advance 4 (stepCount down cR s) :=
  if_neg hm

theorem countJump_spec :
    (countMet down cR lR (stepCount down cR s) = true → (ea0 rB addr s).getLsbD 0 = false →
        outcomeOf (countJump down cR lR rB addr s) = .next { stepCount down cR s with pc := ea0 rB addr s }) ∧
      (¬ countMet down cR lR (stepCount down cR s) = true → s.pc.toNat + 4 < s.addrLimit →
        outcomeOf (countJump down cR lR rB addr s) = .next { stepCount down cR s with pc := s.pc + 4 }) :=
  ⟨fun hm heven => outcomeOf_next ((countJump_taken hm).trans (transferTo_completes heven)),
    fun hm hpc => outcomeOf_next ((countJump_next hm).trans (advance_completes hpc))⟩

theorem countBranch_spec :
    (∀ a : Addr, countMet down cR lR (stepCount down cR s) = true → s.pc.getLsbD 0 = false →
        (a.toNat : Int) = s.pc.toNat + 4 + 2 * disp.toInt → a.toNat < s.addrLimit →
        outcomeOf (countBranch down cR lR disp s) = .next { stepCount down cR s with pc := a }) ∧
      (¬ countMet down cR lR (stepCount down cR s) = true → s.pc.toNat + 4 < s.addrLimit →
        outcomeOf (countBranch down cR lR disp s) = .next { stepCount down cR s with pc := s.pc + 4 }) := by
  refine ⟨fun a hm heven ha hlt => ?_, fun hm hpc => ?_⟩
  · apply outcomeOf_next
    rw [countBranch_taken hm, relativeTarget_completes ha hlt]
    exact transferTo_completes (relative_even (len := 4) ha heven rfl)
  · exact outcomeOf_next ((countBranch_next hm).trans (advance_completes hpc))

end Count

/-- Settles O28: the compare of JXH is "high", that of JXLE "low or equal", on the updated count. -/
theorem countAndCompareJumps : Obligations.CountAndCompareJumps := by
  refine ⟨fun cR lR rB addr s x hx => ?_, fun cR lR rB addr s x hx => ?_⟩
  · obtain ⟨htaken, hnext⟩ := countJump_spec (down := true) (cR := cR) (lR := lR) (rB := rB) (addr := addr) (s := s)
    rw [countMet_high] at htaken hnext
    subst hx
    exact ⟨htaken, fun h => hnext (not_lt.2 h)⟩
  · obtain ⟨htaken, hnext⟩ := countJump_spec (down := false) (cR := cR) (lR := lR) (rB := rB) (addr := addr) (s := s)
    rw [countMet_lowOrEqual] at htaken hnext
    subst hx
    exact ⟨htaken, fun h => hnext (not_le.2 h)⟩

/-- Settles O29: as the count-and-compare jumps, to a relative target. -/
theorem countAndCompareLongBranches : Obligations.CountAndCompareLongBranches := by
  refine ⟨fun cR lR disp s x hx => ?_, fun cR lR disp s x hx => ?_⟩
  · obtain ⟨htaken, hnext⟩ := countBranch_spec (down := true) (cR := cR) (lR := lR) (disp := disp) (s := s)
    simp only [countMet_high] at htaken hnext
    subst hx
    exact ⟨htaken, fun h => hnext (not_lt.2 h)⟩
  · obtain ⟨htaken, hnext⟩ := countBranch_spec (down := false) (cR := cR) (lR := lR) (disp := disp) (s := s)
    simp only [countMet_lowOrEqual] at htaken hnext
    subst hx
    exact ⟨htaken, fun h => hnext (not_le.2 h)⟩

/-! ### Odd targets -/

theorem fault_of_error {r : Except Fault State} {e : Fault} (h : r = .error e) : outcomeOf r = .fault e :=
  (outcomeOf_eq_fault_iff r e).2 h

/-- Settles O53: a transfer to an odd target stops, wherever it is made. -/
theorem jumpsToOddTargetsStop : Obligations.JumpsToOddTargetsStop := by
  refine ⟨fun j hj rX rB addr s a hc hto hodd => ?_, fun j hj rX rB addr s a hc hto hodd => ?_,
    fun rR rX rB addr s a hpc hroom hto hodd => ?_, fun cR lR rB addr s x hodd => ⟨fun hx hm => ?_, fun hx hm => ?_⟩⟩
  · fin_cases hj <;> exact condJump_odd_target _ s.sw rX rB addr s a hc hto hodd
  · fin_cases hj <;> exact condJump_odd_target _ s.ssw rX rB addr s a hc hto hodd
  · obtain ⟨u, hu⟩ := saveReturn_completes (s.pc + 4) hroom
    exact fault_of_error ((jumpSubroutine_eq hto hpc hu).trans (transferTo_stops hodd))
  · subst hx
    exact fault_of_error
      ((countJump_taken (down := true) ((countMet_high _ _ _).2 hm)).trans (transferTo_stops hodd))
  · subst hx
    exact fault_of_error
      ((countJump_taken (down := false) ((countMet_lowOrEqual _ _ _).2 hm)).trans (transferTo_stops hodd))

end Sys2Proof.Transfers
end

section
/-! SUPPORT. Extensible shifts, shifts, single operands and normalize (42_extensible_shift.md, 43_shifts.md,
45_single_operand.md): the register or pair each leaves, with its flags. -/

namespace Sys2Proof.DataProcessing

open Sys2Proof.Machine

/-! ### Pairs and counts -/

theorem writePair_read_high (r : RegNum) (v : Long) (s : State) :
    (writePair r v s).x.read r = v.extractLsb' 32 32 := by
  simp only [writePair, State.setX_x]
  rw [RegFile.read_write_other _ _ (regNum_ne_succ r), RegFile.read_write_same]

theorem writePair_read_low (r : RegNum) (v : Long) (s : State) :
    (writePair r v s).x.read (r + 1) = v.extractLsb' 0 32 :=
  RegFile.read_write_same _ _ _

/-- A pair written is read back, also from an odd register. -/
theorem readPair_of_writePair {r : RegNum} {v : Long} {s t : State} (h : t.x = (writePair r v s).x) :
    readPair r t = v := by
  rw [readPair, h, writePair_read_high, writePair_read_low]
  apply BitVec.eq_of_toNat_eq
  simp only [toNat_append_add, BitVec.extractLsb'_toNat, Nat.shiftRight_eq_div_pow]
  have := v.isLt
  omega

theorem writePair_frame (r : RegNum) (v : Long) (s : State) :
    writePair r v s = { s with x := (writePair r v s).x } := rfl

/-! ### Extensible shifts -/

theorem connect_getLsbD (conn : BitVec 4) (t d : Long) {j : Nat} (hj : j < 64) :
    (connect conn t d).getLsbD j = conn.getLsbD (3 - (2 * (t.getLsbD j).toNat + (d.getLsbD j).toNat)) := by
  have hspread : ∀ on : Bool, (spread on).getLsbD j = on := by
    intro on
    unfold spread
    cases on
    · simp
    · simp only [if_true, BitVec.getLsbD_allOnes, hj, decide_true]
  simp only [connect, BitVec.getLsbD_or, BitVec.getLsbD_and, BitVec.getLsbD_not, hspread, hj, decide_true, Bool.true_and]
  cases t.getLsbD j <;> cases d.getLsbD j <;> simp

theorem connect_zero (s d : Long) : connect 0b0000#4 s d = 0 := by
  apply BitVec.eq_of_getLsbD_eq
  intro j hj
  simp only [connect_getLsbD _ _ _ hj, BitVec.ofNat_eq_ofNat, BitVec.getLsbD_zero]

/-- Settles O37, bit by bit: the four bits of each connective are the table of its operation. -/
theorem sixteenConnectives : Obligations.SixteenConnectives := by
  intro s d
  refine ⟨connect_zero s d, ?_, ?_, ?_, ?_, ?_, ?_, ?_, ?_, ?_, ?_, ?_, ?_, ?_, ?_, ?_⟩
  all_goals
    apply BitVec.eq_of_getLsbD_eq
    intro j hj
    simp only [connect_getLsbD _ _ _ hj, BitVec.getLsbD_or, BitVec.getLsbD_and, BitVec.getLsbD_xor, BitVec.getLsbD_not,
      BitVec.getLsbD_allOnes, hj, decide_true, Bool.true_and]
    cases s.getLsbD j <;> cases d.getLsbD j <;> rfl

section Extensible
variable {i : Instr} {left : Bool} {rD rS : RegNum} {conn : BitVec 4} {n : BitVec 6} {s : State}

theorem extensibleShift_eq (h7 : rD ≠ 7) (hn : n.toNat ≤ 32) :
    extensibleShift i left rD rS conn n s =
      advance 4 (setFlags none none none
        (writePair rD (combined left conn n.toNat (s.x.read rS) (readPair rD s)) s)) := by
  simp only [extensibleShift, checkExtensible, if_neg h7, if_neg (Nat.not_lt.2 hn), bind, Except.bind]

theorem extensibleShift_spec {p : Nat} (h7 : rD ≠ 7) (hn : n.toNat ≤ 32)
    (hp : p = if left then n.toNat else 32 - n.toNat) (hpc : s.pc.toNat + 4 < s.addrLimit) :
    ∃ t, outcomeOf (extensibleShift i left rD rS conn n s) = .next t ∧
      t = { s with x := t.x, sw := t.sw, draws := t.draws, pc := s.pc + 4 } ∧
      FlagsAfter s t none none none ∧ (∀ q : RegNum, q ≠ rD → q ≠ rD + 1 → t.x.read q = s.x.read q) ∧
      (∀ k, p ≤ k → k < p + 32 →
        (readPair rD t).getLsbD k =
          conn.getLsbD (3 - (2 * ((s.x.read rS).getLsbD (k - p)).toNat + ((readPair rD s).getLsbD k).toNat))) ∧
      (∀ k, k < p ∨ p + 32 ≤ k → (readPair rD t).getLsbD k = (readPair rD s).getLsbD k) := by
  obtain ⟨t, hrun, hframe, hflags, hx⟩ := finish_integer (c := none) (v := none) (r := none)
    (writePair_frame rD (combined left conn n.toNat (s.x.read rS) (readPair rD s)) s) hpc
  have hbits := fun k => combined_getLsbD left conn n.toNat p (s.x.read rS) (readPair rD s) hn hp k
  rw [← readPair_of_writePair hx] at hbits
  refine ⟨t, outcomeOf_next ((extensibleShift_eq h7 hn).trans hrun), hframe, hflags, fun q h1 h2 => ?_,
    fun k => (hbits k).1, fun k => (hbits k).2⟩
  rw [hx]
  exact writePair_read_other s rD _ q h1 h2

end Extensible

/-- Settles O35: each bit of the pair is a bit of `combined`. -/
theorem extensibleShiftsCombineBits : Obligations.ExtensibleShiftsCombineBits :=
  ⟨fun _ _ _ _ _ _ h7 hn hp hpc => extensibleShift_spec (left := true) h7 hn hp hpc,
    fun _ _ _ _ _ _ h7 hn hp hpc => extensibleShift_spec (left := false) h7 hn hp hpc⟩

/-- The source stands at the same bits for ESL with count `n` and ESR with count `32 - n` (R223). -/
theorem combined_left_eq_right (conn : BitVec 4) {n : Nat} (hn : n ≤ 32) (src : Word) (d : Long) :
    combined true conn n src d = combined false conn (32 - n) src d := by
  apply BitVec.eq_of_getLsbD_eq
  intro k _
  obtain ⟨hin, hout⟩ := combined_getLsbD true conn n n src d hn rfl k
  obtain ⟨hin', hout'⟩ := combined_getLsbD false conn (32 - n) n src d (by omega) (by simp; omega) k
  by_cases hk : n ≤ k ∧ k < n + 32
  · rw [hin hk.1 hk.2, hin' hk.1 hk.2]
  · rw [hout (by omega), hout' (by omega)]

theorem exec_esl_pairPastLast (rS : RegNum) (conn : BitVec 4) (n : BitVec 6) (s : State) :
    exec (.esl 7 rS conn n) s = .fault (.reservedOperand (.esl 7 rS conn n) .pairPastLast) := rfl

theorem exec_esr_pairPastLast (rS : RegNum) (conn : BitVec 4) (n : BitVec 6) (s : State) :
    exec (.esr 7 rS conn n) s = .fault (.reservedOperand (.esr 7 rS conn n) .pairPastLast) := rfl

/-- Settles O36: the two combine the same bits, and past `x[7]` both stop. -/
theorem extensibleShiftsDoEachOthersWork : Obligations.ExtensibleShiftsDoEachOthersWork := by
  intro rD rS conn n s hn
  have hcount : (32 - n).toNat = 32 - n.toNat := by
    show (32#6 - n).toNat = _
    simp only [BitVec.toNat_sub, BitVec.toNat_ofNat]
    omega
  refine ⟨fun h7 => ?_, fun h7 j hj => ?_⟩
  · apply congrArg outcomeOf
    rw [extensibleShift_eq h7 hn, extensibleShift_eq h7 (by omega), hcount, combined_left_eq_right conn hn]
  · subst h7
    fin_cases hj
    · exact exec_esl_pairPastLast rS conn n s
    · exact exec_esr_pairPastLast rS conn (32 - n) s

/-! ### Shifts -/

section Shifts
variable {op : ShiftOp} {r : RegNum} {n : Nat} {s : State}

theorem shiftNarrow_spec {w : Nat} (hw : w ≤ 32) (hn : n < w) (hpc : s.pc.toNat + 2 < s.addrLimit) :
    ∃ t c', outcomeOf (shiftNarrow op w r n s) = .next t ∧
      t = { s with x := t.x, sw := t.sw, draws := t.draws, pc := s.pc + 2 } ∧
      ShiftFormula op n s.sw.c ((s.x.read r).setWidth w) ((t.x.read r).setWidth w) c' ∧
      NarrowAfter s (s.x.read r) (t.x.read r) ((t.x.read r).setWidth w) ∧
      FlagsAfter s t c' none none ∧ (∀ q : RegNum, q ≠ r → t.x.read q = s.x.read q) := by
  obtain ⟨t, hrun, hframe, hflags, hx⟩ := finish_integer (len := 2)
    (c := shiftCarry op n s.sw.c (readNarrow w r s)) (v := none) (r := none)
    (u := writeNarrow r (shiftResult op n s.sw.c (readNarrow w r s)) s) rfl hpc
  have hnarrow := writeNarrow_narrowAfter hw r (shiftResult op n s.sw.c (readNarrow w r s)) s
  rw [← hx] at hnarrow
  have hlow : (t.x.read r).setWidth w = shiftResult op n s.sw.c (readNarrow w r s) := hnarrow.1
  refine ⟨t, _, outcomeOf_next hrun, hframe, ?_, hlow ▸ hnarrow, hflags, fun q hq => ?_⟩
  · rw [hlow]
    exact shiftResult_formula op n s.sw.c _ hn
  · rw [hx]
    exact RegFile.read_write_other _ _ hq

theorem shiftWord_spec (hn : n < 32) (hpc : s.pc.toNat + 2 < s.addrLimit) :
    ∃ t c', outcomeOf (shiftWord op r n s) = .next t ∧
      t = { s with x := t.x, sw := t.sw, draws := t.draws, pc := s.pc + 2 } ∧
      ShiftFormula op n s.sw.c (s.x.read r) (t.x.read r) c' ∧
      FlagsAfter s t c' none none ∧ (∀ q : RegNum, q ≠ r → t.x.read q = s.x.read q) := by
  obtain ⟨t, hrun, hframe, hflags, hx⟩ := finish_integer (len := 2) (c := shiftCarry op n s.sw.c (s.x.read r))
    (v := none) (r := none) (u := s.setX r (shiftResult op n s.sw.c (s.x.read r))) rfl hpc
  refine ⟨t, _, outcomeOf_next hrun, hframe, ?_, hflags, fun q hq => ?_⟩
  · rw [hx, State.setX_x, RegFile.read_write_same]
    exact shiftResult_formula op n s.sw.c _ hn
  · rw [hx]
    exact RegFile.read_write_other _ _ hq

theorem checkEven_ok (i : Instr) (hr : r.getLsbD 0 = false) : checkEven i r = .ok () :=
  (checkEven_eq_ok_iff i r ()).2 hr

theorem shiftLong_spec {i : Instr} (hr : r.getLsbD 0 = false) (hn : n < 64) (hpc : s.pc.toNat + 2 < s.addrLimit) :
    ∃ t c', outcomeOf (shiftLong i op r n s) = .next t ∧
      t = { s with x := t.x, sw := t.sw, draws := t.draws, pc := s.pc + 2 } ∧
      ShiftFormula op n s.sw.c (readPair r s) (readPair r t) c' ∧
      FlagsAfter s t c' none none ∧ (∀ q : RegNum, q ≠ r → q ≠ r + 1 → t.x.read q = s.x.read q) := by
  obtain ⟨t, hrun, hframe, hflags, hx⟩ := finish_integer (c := shiftCarry op n s.sw.c (readPair r s))
    (v := none) (r := none) (writePair_frame r (shiftResult op n s.sw.c (readPair r s)) s) hpc
  refine ⟨t, _, outcomeOf_next ?_, hframe, ?_, hflags, fun q h1 h2 => ?_⟩
  · simp only [shiftLong, checkEven_ok i hr, bind, Except.bind]
    exact hrun
  · rw [readPair_of_writePair hx]
    exact shiftResult_formula op n s.sw.c _ hn
  · rw [hx]
    exact writePair_read_other s r _ q h1 h2

end Shifts

/-- Settles O38. -/
theorem byteShifts : Obligations.ByteShifts := by
  intro j hj r n s hpc
  fin_cases hj <;> exact shiftNarrow_spec (by decide) n.isLt hpc

/-- Settles O39. -/
theorem halfwordShifts : Obligations.HalfwordShifts := by
  intro j hj r n s hpc
  fin_cases hj <;> exact shiftNarrow_spec (by decide) n.isLt hpc

/-- Settles O40. -/
theorem wordShifts : Obligations.WordShifts := by
  intro j hj r n s hpc
  fin_cases hj <;> exact shiftWord_spec n.isLt hpc

/-- Settles O41. -/
theorem longShifts : Obligations.LongShifts := by
  intro j hj r n s hr hpc
  fin_cases hj <;> exact shiftLong_spec hr n.isLt hpc

/-! ### Single operands -/

section Single
variable {i : Instr} {r : RegNum} {s : State}

theorem replaceLong_spec (v : Long) (hr : r.getLsbD 0 = false) (hpc : s.pc.toNat + 2 < s.addrLimit) :
    ∃ t, outcomeOf (replaceLong i r v s) = .next t ∧
      t = { s with x := t.x, sw := t.sw, draws := t.draws, pc := s.pc + 2 } ∧ FlagsAfter s t none none none ∧
      t.x.read r = v.extractLsb' 32 32 ∧ t.x.read (r + 1) = v.extractLsb' 0 32 ∧
      (∀ q : RegNum, q ≠ r → q ≠ r + 1 → t.x.read q = s.x.read q) := by
  obtain ⟨t, hrun, hframe, hflags, hx⟩ := finish_integer (c := none) (v := none) (r := none)
    (writePair_frame r v s) hpc
  refine ⟨t, outcomeOf_next ?_, hframe, hflags, ?_, ?_, fun q h1 h2 => ?_⟩
  · simp only [replaceLong, checkEven_ok i hr, bind, Except.bind]
    exact hrun
  · rw [hx, writePair_read_high]
  · rw [hx, writePair_read_low]
  · rw [hx]
    exact writePair_read_other s r _ q h1 h2

theorem not_readPair_high (r : RegNum) (s : State) : (~~~(readPair r s)).extractLsb' 32 32 = ~~~(s.x.read r) := by
  apply BitVec.eq_of_getLsbD_eq
  intro j hj
  simp only [BitVec.getLsbD_extractLsb', BitVec.getLsbD_not, readPair, BitVec.getLsbD_append]
  simp [hj, show 32 + j < 64 by omega]

theorem not_readPair_low (r : RegNum) (s : State) : (~~~(readPair r s)).extractLsb' 0 32 = ~~~(s.x.read (r + 1)) := by
  apply BitVec.eq_of_getLsbD_eq
  intro j hj
  simp only [BitVec.getLsbD_extractLsb', BitVec.getLsbD_not, readPair, BitVec.getLsbD_append]
  simp [hj, show j < 64 by omega]

theorem arithmeticWord_spec (op : Word → Word) (hpc : s.pc.toNat + 2 < s.addrLimit) :
    ∃ t, outcomeOf (arithmeticWord op r s) = .next t ∧
      t = { s with x := t.x, sw := t.sw, draws := t.draws, pc := s.pc + 2 } ∧ t.x.read r = op (s.x.read r) ∧
      FlagsAfter s t none (some (decide ((s.x.read r).toNat = 2 ^ 31))) (some (signFormula (t.x.read r))) ∧
      (∀ q : RegNum, q ≠ r → t.x.read q = s.x.read q) := by
  obtain ⟨t, hrun, hframe, hflags, hx⟩ := finish_integer (len := 2) (c := none) (v := some (mostNegative (s.x.read r)))
    (r := some (signOf (op (s.x.read r)))) (u := s.setX r (op (s.x.read r))) rfl hpc
  have hresult : t.x.read r = op (s.x.read r) := by rw [hx, State.setX_x, RegFile.read_write_same]
  rw [mostNegative_eq (by decide), signOf_eq_signFormula, ← hresult] at hflags
  refine ⟨t, outcomeOf_next hrun, hframe, hresult, hflags, fun q hq => ?_⟩
  rw [hx]
  exact RegFile.read_write_other _ _ hq

theorem arithmeticLong_spec (op : Long → Long) (hr : r.getLsbD 0 = false) (hpc : s.pc.toNat + 2 < s.addrLimit) :
    ∃ t, outcomeOf (arithmeticLong i op r s) = .next t ∧
      t = { s with x := t.x, sw := t.sw, draws := t.draws, pc := s.pc + 2 } ∧ readPair r t = op (readPair r s) ∧
      FlagsAfter s t none (some (decide ((readPair r s).toNat = 2 ^ 63))) (some (signFormula (readPair r t))) ∧
      (∀ q : RegNum, q ≠ r → q ≠ r + 1 → t.x.read q = s.x.read q) := by
  obtain ⟨t, hrun, hframe, hflags, hx⟩ := finish_integer (c := none) (v := some (mostNegative (readPair r s)))
    (r := some (signOf (op (readPair r s)))) (writePair_frame r (op (readPair r s)) s) hpc
  have hresult : readPair r t = op (readPair r s) := readPair_of_writePair hx
  rw [mostNegative_eq (by decide), signOf_eq_signFormula, ← hresult] at hflags
  refine ⟨t, outcomeOf_next ?_, hframe, hresult, hflags, fun q h1 h2 => ?_⟩
  · simp only [arithmeticLong, checkEven_ok i hr, bind, Except.bind]
    exact hrun
  · rw [hx]
    exact writePair_read_other s r _ q h1 h2

end Single

/-- Settles O43: the pair is replaced by zero, or by its inverse, which is the inverse of each half. -/
theorem clearAndInvertLong : Obligations.ClearAndInvertLong := by
  refine ⟨fun r s hr hpc => replaceLong_spec 0 hr hpc, fun r s hr hpc => ?_⟩
  have h := replaceLong_spec (i := .invl r) (~~~(readPair r s)) hr hpc
  rw [not_readPair_high, not_readPair_low] at h
  exact h

/-- Settles O44: `op` is negation for NEG and NEGL, `absolute` for ABS and ABSL. -/
theorem negateAndAbsoluteValue : Obligations.NegateAndAbsoluteValue := by
  refine ⟨fun r s hpc => ?_, fun r s hr hpc => ?_, fun r s hpc => ?_, fun r s hr hpc => ?_⟩
  · obtain ⟨t, hexec, hframe, hresult, hrest⟩ := arithmeticWord_spec (r := r) (fun v => -v) hpc
    exact ⟨t, hexec, hframe, by rw [hresult, neg_toNat_mod], hrest⟩
  · obtain ⟨t, hexec, hframe, hresult, hrest⟩ := arithmeticLong_spec (i := .negl r) (fun v => -v) hr hpc
    exact ⟨t, hexec, hframe, by rw [hresult, neg_toNat_mod], hrest⟩
  · obtain ⟨t, hexec, hframe, hresult, hrest⟩ := arithmeticWord_spec (r := r) absolute hpc
    exact ⟨t, hexec, hframe, by rw [hresult, absolute_toNat], hrest⟩
  · obtain ⟨t, hexec, hframe, hresult, hrest⟩ := arithmeticLong_spec (i := .absl r) absolute hr hpc
    exact ⟨t, hexec, hframe, by rw [hresult, absolute_toNat], hrest⟩

/-! ### Normalize -/

theorem checkApart_ok (i : Instr) {rD rS : RegNum} (h : rD ≠ rS) : checkApart i rD rS = .ok () := if_neg h

theorem checkNonzero_ok (i : Instr) (rS : RegNum) {w : Nat} {v : BitVec w} (h : v ≠ 0) : checkNonzero i rS v = .ok () :=
  if_neg h

/-- A count of at most 64 fits its register. -/
theorem count_toNat {k : Nat} (h : k < 64) : (BitVec.ofNat 32 k).toNat = k := by
  rw [BitVec.toNat_ofNat, Nat.mod_eq_of_lt (by omega)]

section Normalize
variable {i : Instr} {rD rS : RegNum} {s : State}

theorem normalizeNarrow_spec {w : Nat} (hw : w ≤ 32) {v : BitVec w} (hv : v = (s.x.read rS).setWidth w)
    (hne : rD ≠ rS) (h0 : v ≠ 0) (hpc : s.pc.toNat + 2 < s.addrLimit) :
    ∃ t k, outcomeOf (normalizeNarrow i w rD rS s) = .next t ∧
      t = { s with x := t.x, sw := t.sw, draws := t.draws, pc := s.pc + 2 } ∧ FlagsAfter s t none none none ∧
      NormalizedBy v k ∧ NarrowAfter s (s.x.read rS) (t.x.read rS) (v <<< k) ∧ (t.x.read rD).toNat = k ∧
      (∀ q : RegNum, q ≠ rD → q ≠ rS → t.x.read q = s.x.read q) := by
  obtain rfl : v = readNarrow w rS s := hv
  obtain ⟨hnorm, hlt⟩ := leadingZeros_normalizes (readNarrow w rS s) h0
  obtain ⟨t, hrun, hframe, hflags, hx⟩ := finish_integer (len := 2) (c := none) (v := none) (r := none)
    (u := (writeNarrow rS (readNarrow w rS s <<< leadingZeros (readNarrow w rS s)) s).setX rD
      (BitVec.ofNat 32 (leadingZeros (readNarrow w rS s)))) rfl hpc
  rw [State.setX_x] at hx
  refine ⟨t, leadingZeros (readNarrow w rS s), outcomeOf_next ?_, hframe, hflags, hnorm, ?_, ?_, fun q h1 h2 => ?_⟩
  · simp only [normalizeNarrow, checkApart_ok i hne, checkNonzero_ok i rS h0, bind, Except.bind]
    exact hrun
  · rw [hx, RegFile.read_write_other _ _ hne.symm]
    exact writeNarrow_narrowAfter hw rS _ s
  · rw [hx, RegFile.read_write_same, count_toNat (by omega)]
  · rw [hx, RegFile.read_write_other _ _ h1]
    exact RegFile.read_write_other _ _ h2

theorem normalizeWord_spec (hne : rD ≠ rS) (h0 : s.x.read rS ≠ 0) (hpc : s.pc.toNat + 2 < s.addrLimit) :
    ∃ t k, outcomeOf (normalizeWord i rD rS s) = .next t ∧
      t = { s with x := t.x, sw := t.sw, draws := t.draws, pc := s.pc + 2 } ∧ FlagsAfter s t none none none ∧
      NormalizedBy (s.x.read rS) k ∧ t.x.read rS = s.x.read rS <<< k ∧ (t.x.read rD).toNat = k ∧
      (∀ q : RegNum, q ≠ rD → q ≠ rS → t.x.read q = s.x.read q) := by
  obtain ⟨hnorm, hlt⟩ := leadingZeros_normalizes (s.x.read rS) h0
  obtain ⟨t, hrun, hframe, hflags, hx⟩ := finish_integer (len := 2) (c := none) (v := none) (r := none)
    (u := (s.setX rS (s.x.read rS <<< leadingZeros (s.x.read rS))).setX rD
      (BitVec.ofNat 32 (leadingZeros (s.x.read rS)))) rfl hpc
  rw [State.setX_x, State.setX_x] at hx
  refine ⟨t, leadingZeros (s.x.read rS), outcomeOf_next ?_, hframe, hflags, hnorm, ?_, ?_, fun q h1 h2 => ?_⟩
  · simp only [normalizeWord, checkApart_ok i hne, checkNonzero_ok i rS h0, bind, Except.bind]
    exact hrun
  · rw [hx, RegFile.read_write_other _ _ hne.symm, RegFile.read_write_same]
  · rw [hx, RegFile.read_write_same, count_toNat (by omega)]
  · rw [hx, RegFile.read_write_other _ _ h1, RegFile.read_write_other _ _ h2]

theorem normalizeLong_spec (hr : rS.getLsbD 0 = false) (hne : rD ≠ rS) (hne' : rD ≠ rS + 1) (h0 : readPair rS s ≠ 0)
    (hpc : s.pc.toNat + 2 < s.addrLimit) :
    ∃ t k, outcomeOf (normalizeLong i rD rS s) = .next t ∧
      t = { s with x := t.x, sw := t.sw, draws := t.draws, pc := s.pc + 2 } ∧ FlagsAfter s t none none none ∧
      NormalizedBy (readPair rS s) k ∧ readPair rS t = readPair rS s <<< k ∧ (t.x.read rD).toNat = k ∧
      (∀ q : RegNum, q ≠ rD → q ≠ rS → q ≠ rS + 1 → t.x.read q = s.x.read q) := by
  obtain ⟨hnorm, hlt⟩ := leadingZeros_normalizes (readPair rS s) h0
  obtain ⟨t, hrun, hframe, hflags, hx⟩ := finish_integer (len := 2) (c := none) (v := none) (r := none)
    (u := (writePair rS (readPair rS s <<< leadingZeros (readPair rS s)) s).setX rD
      (BitVec.ofNat 32 (leadingZeros (readPair rS s)))) rfl hpc
  rw [State.setX_x] at hx
  refine ⟨t, leadingZeros (readPair rS s), outcomeOf_next ?_, hframe, hflags, hnorm, ?_, ?_, fun q h1 h2 h3 => ?_⟩
  · simp only [normalizeLong, checkEven_ok i hr, checkApart_ok i hne, checkApart_ok i hne', checkNonzero_ok i rS h0,
      bind, Except.bind]
    exact hrun
  · rw [readPair, hx, RegFile.read_write_other _ _ hne.symm, RegFile.read_write_other _ _ hne'.symm]
    exact readPair_of_writePair rfl
  · rw [hx, RegFile.read_write_same, count_toNat hlt]
  · rw [hx, RegFile.read_write_other _ _ h1]
    exact writePair_read_other s rS _ q h2 h3

end Normalize

/-- Settles O45. -/
theorem normalizeByteAndHalfword : Obligations.NormalizeByteAndHalfword :=
  ⟨fun _ _ _ _ hv hne h0 hpc => normalizeNarrow_spec (by decide) hv hne h0 hpc,
    fun _ _ _ _ hv hne h0 hpc => normalizeNarrow_spec (by decide) hv hne h0 hpc⟩

/-- Settles O46. -/
theorem normalizeWordAndLong : Obligations.NormalizeWordAndLong :=
  ⟨fun _ _ _ hne h0 hpc => normalizeWord_spec hne h0 hpc,
    fun _ _ _ hr hne hne' h0 hpc => normalizeLong_spec hr hne hne' h0 hpc⟩

end Sys2Proof.DataProcessing
end

section
/-! SUPPORT. Mathematical functions, and CLRQ, NEGQ and ABSQ (46_math_functions.md). -/

namespace Sys2Proof.Functions

open Sys2Proof.Machine

/-- A function that R388 to R391 say nothing of is the free one (R321). -/
theorem freeFunction_spec {ty : FpType} {fn : FpFn} (hfree : ∀ a, fpFunc ty fn a = Config.fpImage ty fn a) (r : RegNum)
    (s : State) (hpc : s.pc.toNat + 2 < s.addrLimit) :
    ∃ t, outcomeOf (applyFunction ty fn r s) = .next t ∧
      t = { s with
        f := s.f.write r (Config.fpImage ty fn (s.f.read r))
        sw := t.sw
        draws := t.draws
        pc := s.pc + 2 } ∧
      FlagsAfter s t none none (some (fSign ty (t.f.read r))) := by
  obtain ⟨t, hexec, hframe, hflags, hread⟩ := applyFunction_spec ty fn r s hpc
  rw [hfree] at hframe
  rw [← hread] at hflags
  exact ⟨t, hexec, hframe, hflags⟩

/-- Settles O47: none of the 64 is CLR, ABS, SGN or NEG. -/
theorem mathematicalFunctions : Obligations.MathematicalFunctions := by
  intro j hj r s hpc
  fin_cases hj <;> exact freeFunction_spec (fun _ => rfl) r s hpc

/-- Settles O49: the negation is `qNegate`, and ABSQ negates a negative image. -/
theorem clearNegateAndAbsoluteQuad : Obligations.ClearNegateAndAbsoluteQuad := by
  refine ⟨qNegate, fun a => ?_, fun a => qNegate_qNegate, fun r s hpc => ⟨?_, ?_, fun y hy => ?_⟩⟩
  · rw [fSign_qNegate]
    cases fSign .q a <;> rfl
  · obtain ⟨t, hexec, hframe, hflags, -⟩ := applyFunction_spec .q .clr r s hpc
    rw [show fSign .q (fpFunc .q .clr (s.f.read r)) = .zero from fSign_constants.1] at hflags
    exact ⟨t, hexec, hframe, hflags⟩
  · obtain ⟨t, hexec, hframe, hflags, -⟩ := applyFunction_spec .q .neg r s hpc
    exact ⟨t, hexec, hframe, hflags⟩
  · obtain ⟨t, hexec, hframe, hflags, -⟩ := applyFunction_spec .q .abs r s hpc
    rw [show fpFunc .q .abs (s.f.read r) = y from hy.symm] at hframe hflags
    exact ⟨t, hexec, hframe, hflags⟩

end Sys2Proof.Functions
end

section
/-! SUPPORT. Operands without a meaning (decisions D9, D17, D20, D25): an instruction checks its operands first, and a
check that fails ends it. -/

namespace Sys2Proof.OperandStops

open Sys2Proof.Machine Sys2Proof.Ranges Sys2Proof.DataProcessing

/-! ### Checks that fail -/

section Checks
variable {r rD rS r1 r2 : RegNum} {n : BitVec 6}

/-- A check that fails is all there is of its instruction. -/
theorem outcomeOf_check {check : Except Fault Unit} {e : Fault} (h : check = .error e) (rest : Except Fault State) :
    outcomeOf (check >>= fun _ => rest) = .fault e := by
  rw [h]
  rfl

theorem checkEven_stops (i : Instr) (h : r.getLsbD 0 = true) :
    checkEven i r = .error (.reservedOperand i (.oddLongRegister r)) := if_pos h

theorem checkRange_stops (i : Instr) (h : r2 < r1) :
    checkRange i r1 r2 = .error (.reservedOperand i (.descendingRange r1 r2)) := if_pos h

theorem checkNoStackPointer_stops (i : Instr) (r2 : RegNum) :
    checkNoStackPointer i 0 r2 = .error (.reservedOperand i (.popsStackPointer r2)) := if_pos rfl

theorem checkExtensible_stops (i : Instr) (h7 : rD ≠ 7) (hn : 32 < n.toNat) :
    checkExtensible i rD n = .error (.reservedOperand i (.countAboveField n)) := by
  rw [checkExtensible, if_neg h7, if_pos hn]

theorem checkApart_stops (i : Instr) (h : rD = rS) :
    checkApart i rD rS = .error (.reservedOperand i (.normalizeOverlap rD rS)) := if_pos h

theorem checkNonzero_stops (i : Instr) (rS : RegNum) {w : Nat} {v : BitVec w} (h : v = 0) :
    checkNonzero i rS v = .error (.reservedOperand i (.normalizeZero rS)) := if_pos h

end Checks

/-! ### The instructions -/

/-- Settles O50: each of the twelve checks its register before anything else. -/
theorem oddLongRegistersStop : Obligations.OddLongRegistersStop := by
  intro r rD n s hr i hi
  fin_cases hi <;> exact outcomeOf_check (checkEven_stops _ hr) _

/-- Settles O51: each of the twelve checks its range before anything else, and the POP of base registers next that
it leaves out `b[0]`. -/
theorem rangesWithoutMeaningStop : Obligations.RangesWithoutMeaningStop := by
  refine ⟨fun r1 r2 rB addr s hr i hi => ?_, fun r2 s => ?_⟩
  · fin_cases hi <;> exact outcomeOf_check (checkRange_stops _ hr) _
  · have hr : (0 : RegNum) ≤ r2 := Nat.zero_le r2.toNat
    change outcomeOf (checkRange (.lmubrPop 0 r2) 0 r2 >>= fun _ => checkNoStackPointer (.lmubrPop 0 r2) 0 r2 >>= fun _ =>
      popMultiple (.lmubrPop 0 r2) .b 0 r2 s) = _
    rw [checkRange_ok _ hr]
    exact outcomeOf_check (checkNoStackPointer_stops (.lmubrPop 0 r2) r2) (popMultiple (.lmubrPop 0 r2) .b 0 r2 s)

section Normalize
variable {i : Instr} {rD rS : RegNum} {s : State}

theorem normalizeLong_even (hr : rS.getLsbD 0 = false) (hne : rD ≠ rS) :
    normalizeLong i rD rS s = (checkApart i rD (rS + 1) >>= fun _ =>
      checkNonzero i rS (readPair rS s) >>= fun _ =>
        advance 2 (setFlags none none none ((writePair rS (readPair rS s <<< leadingZeros (readPair rS s)) s).setX rD
          (BitVec.ofNat 32 (leadingZeros (readPair rS s)))))) := by
  simp only [normalizeLong, checkEven_ok i hr, checkApart_ok i hne, bind, Except.bind]

theorem normalizeLong_stops_source (hr : rS.getLsbD 0 = false) (h : rD = rS) :
    outcomeOf (normalizeLong i rD rS s) = .fault (.reservedOperand i (.normalizeOverlap rD rS)) := by
  simp only [normalizeLong, checkEven_ok i hr, checkApart_stops i h, bind, Except.bind, outcomeOf]

theorem normalizeLong_stops_second (hr : rS.getLsbD 0 = false) (h : rD = rS + 1) :
    outcomeOf (normalizeLong i rD rS s) = .fault (.reservedOperand i (.normalizeOverlap rD (rS + 1))) := by
  rw [normalizeLong_even hr (h ▸ (regNum_ne_succ rS).symm)]
  exact outcomeOf_check (checkApart_stops i h) _

theorem normalizeLong_stops_zero (hr : rS.getLsbD 0 = false) (hne : rD ≠ rS) (hne' : rD ≠ rS + 1)
    (h0 : readPair rS s = 0) :
    outcomeOf (normalizeLong i rD rS s) = .fault (.reservedOperand i (.normalizeZero rS)) := by
  rw [normalizeLong_even hr hne, checkApart_ok i hne']
  exact outcomeOf_check (checkNonzero_stops i rS h0) _

theorem normalizeNarrow_stops_zero {w : Nat} (hne : rD ≠ rS) (h0 : (s.x.read rS).setWidth w = 0) :
    outcomeOf (normalizeNarrow i w rD rS s) = .fault (.reservedOperand i (.normalizeZero rS)) := by
  simp only [normalizeNarrow, checkApart_ok i hne, checkNonzero_stops (v := readNarrow w rS s) i rS h0, bind,
    Except.bind, outcomeOf]

theorem normalizeWord_stops_zero (hne : rD ≠ rS) (h0 : s.x.read rS = 0) :
    outcomeOf (normalizeWord i rD rS s) = .fault (.reservedOperand i (.normalizeZero rS)) := by
  simp only [normalizeWord, checkApart_ok i hne, checkNonzero_stops i rS h0, bind, Except.bind, outcomeOf]

end Normalize

/-- Settles O52: extensible shifts check the pair, then the count; normalize checks the registers, then the operand. -/
theorem shiftAndNormalizeOperandsWithoutMeaningStop : Obligations.ShiftAndNormalizeOperandsWithoutMeaningStop := by
  refine ⟨fun rS conn n s => ⟨exec_esl_pairPastLast rS conn n s, exec_esr_pairPastLast rS conn n s⟩,
    fun rD rS conn n s h7 hn => ⟨?_, ?_⟩, fun r s i hi => ?_,
    fun rD rS s hr => ⟨normalizeLong_stops_source hr, normalizeLong_stops_second hr, normalizeLong_stops_zero hr⟩,
    fun rD rS s hne => ⟨normalizeNarrow_stops_zero hne, normalizeNarrow_stops_zero hne, normalizeWord_stops_zero hne⟩⟩
  · exact outcomeOf_check (checkExtensible_stops _ h7 hn) _
  · exact outcomeOf_check (checkExtensible_stops _ h7 hn) _
  · fin_cases hi <;> exact outcomeOf_check (checkApart_stops _ rfl) _

end Sys2Proof.OperandStops
end

section
/-! SUPPORT. Accesses that cannot be made (decisions D28, D29): the first one of an instruction that fails ends it. -/

namespace Sys2Proof.AccessStops

open Sys2Proof.Machine Sys2Proof.Ranges Sys2Proof.Transfers

/-! ### Loads and stores of registers -/

section Registers
variable {i : Instr} {file : FileName} {r r1 r2 rB : RegNum} {addr : Half} {s : State} {why : Fault} {e : Nat}

theorem loadOne_stops (h : LoadStops s (ea0 rB addr s).toNat (s.elementBytes file) why) :
    outcomeOf (loadOne file r rB addr s) = .fault why := by
  simp only [loadOne, memRead_stops h, bind, Except.bind, outcomeOf]

theorem storeOne_stops (h : StoreStops s (ea0 rB addr s).toNat (s.elementBytes file) why) :
    outcomeOf (storeOne file r rB addr s) = .fault why := by
  simp only [storeOne, memWrite_stops h, bind, Except.bind, outcomeOf]

theorem loadMultiple_stops (hr : r1 ≤ r2)
    (h : RangeLoadStops s (ea0 rB addr s).toNat (s.elementBytes file) (rangeCount r1 r2) why) :
    outcomeOf (loadMultiple i file r1 r2 rB addr s) = .fault why := by
  simp only [loadMultiple, checkRange_ok i hr, loadRange_stops h, bind, Except.bind, outcomeOf]

theorem storeMultiple_stops (hr : r1 ≤ r2)
    (h : RangeStoreStops s (ea0 rB addr s).toNat (s.elementBytes file) (rangeCount r1 r2) why) :
    outcomeOf (storeMultiple i file r1 r2 rB addr s) = .fault why := by
  simp only [storeMultiple, checkRange_ok i hr, storeRange_stops h, bind, Except.bind, outcomeOf]

/-- What a load stops with does not depend on the base registers. -/
theorem rangeLoadStops_setB {a count : Nat} (q : RegNum) (v : Addr) (h : RangeLoadStops s a e count why) :
    RangeLoadStops (s.setB q v) a e count why := h

/-- A POP loads its range from the lowered `b[0]`. -/
theorem popMultiple_stops (he : s.elementBytes file = e) (hr : r1 ≤ r2)
    (hlen : rangeCount r1 r2 * e ≤ (s.b.read 0).toNat)
    (h : RangeLoadStops s ((s.b.read 0).toNat - rangeCount r1 r2 * e) e (rangeCount r1 r2) why) :
    outcomeOf (popMultiple i file r1 r2 s) = .fault why := by
  subst he
  have hload := loadRange_stops (file := file) (r := r1)
    (s := s.setB 0 (s.b.read 0 - BitVec.ofNat 64 (rangeCount r1 r2 * s.elementBytes file)))
    (by rw [setB_elementBytes]; exact rangeLoadStops_setB _ _ h)
  rw [← addr_sub_toNat hlen] at hload
  simp only [popMultiple, checkRange_ok i hr, (shrinkStack_eq_ok_iff _ s _).2 ⟨hlen, rfl⟩, State.setB_b,
    RegFile.read_write_same, hload, bind, Except.bind, outcomeOf]

theorem pushMultiple_stops (he : s.elementBytes file = e) (hr : r1 ≤ r2)
    (h : RangeStoreStops s (s.b.read 0).toNat e (rangeCount r1 r2) why) :
    outcomeOf (pushMultiple i file r1 r2 s) = .fault why := by
  subst he
  simp only [pushMultiple, checkRange_ok i hr, storeRange_stops h, bind, Except.bind, outcomeOf]

end Registers

/-! ### Jumps, calls and returns -/

section Transfers
variable {rR rX rB : RegNum} {addr disp : Half} {s : State} {a : Addr} {why : Fault}

theorem saveReturn_stops (next : Addr) (h : StoreStops s (s.b.read 0).toNat s.addrBytes why) :
    saveReturn 0 next s = .error why := by
  simp only [saveReturn, if_true, memWrite_stops h, bind, Except.bind]

/-- A call whose return address cannot be saved stops as the saving does. -/
theorem jumpSubroutine_stops_save (hpc : s.pc.toNat + 4 < s.addrLimit) (hj : JumpsTo s rX rB addr a)
    (h : saveReturn rR (s.pc + 4) s = .error why) : jumpSubroutine rR rX rB addr s = .error why := by
  simp only [jumpSubroutine, jumpTarget_completes hj, nextAddr_completes hpc, bind, Except.bind]
  exact congrArg (fun r => Except.bind r (transferTo a)) h

theorem branchSubroutine_stops_save (hpc : s.pc.toNat + 4 < s.addrLimit)
    (h : saveReturn rR (s.pc + 4) s = .error why) : branchSubroutine rR disp s = .error why := by
  simp only [branchSubroutine, nextAddr_completes hpc, bind, Except.bind]
  exact congrArg (fun r => Except.bind r fun s' => Except.bind (relativeTarget s 4 disp.toInt) fun t => transferTo t s') h

theorem jumpTarget_stops (hx : rX ≠ 0) (h : LoadStops s (ea1 rX rB addr s).toNat s.addrBytes why) :
    jumpTarget rX rB addr s = .error why := by
  simp only [jumpTarget, if_neg hx, memRead_stops h, bind, Except.bind]

theorem condJump_stops {c : Cond} {w : Status} (hx : rX ≠ 0) (h : LoadStops s (ea1 rX rB addr s).toNat s.addrBytes why)
    (hc : condHolds c w = true) : outcomeOf (condJump c w rX rB addr s) = .fault why := by
  simp only [condJump, if_pos hc, jumpTarget_stops hx h, bind, Except.bind, outcomeOf]

/-- A return pops from below `b[0]`. -/
theorem returnIf_stops {c : Cond} (hc : condHolds c s.sw = true) (hlen : s.addrBytes ≤ (s.b.read 0).toNat)
    (h : LoadStops s ((s.b.read 0).toNat - s.addrBytes) s.addrBytes why) :
    outcomeOf (returnIf c s) = .fault why := by
  have hread : memRead (s.setB 0 (s.b.read 0 - BitVec.ofNat 64 s.addrBytes))
      (s.b.read 0 - BitVec.ofNat 64 s.addrBytes).toNat s.addrBytes = .error why := by
    rw [addr_sub_toNat hlen]
    exact memRead_stops h
  simp only [returnIf, if_pos hc, popReturn, (shrinkStack_eq_ok_iff _ s _).2 ⟨hlen, rfl⟩, State.setB_b,
    RegFile.read_write_same, hread, bind, Except.bind, outcomeOf]

end Transfers

/-- Settles O54. -/
theorem accessesThatCannotBeMadeStop : Obligations.AccessesThatCannotBeMadeStop := by
  refine ⟨fun r rB addr s why => ⟨fun h i hi => ?_, fun h i hi => ?_⟩,
    fun r1 r2 rB addr s why hr h => loadMultiple_stops (file := .x) hr h,
    fun r1 r2 rB addr s why hr h => loadMultiple_stops (file := .b) hr h,
    fun r1 r2 rB addr s why hr h => loadMultiple_stops (file := .f) hr h,
    fun r1 r2 rB addr s why hr h => storeMultiple_stops (file := .x) hr h,
    fun r1 r2 rB addr s why hr h => storeMultiple_stops (file := .b) hr h,
    fun r1 r2 rB addr s why hr h => storeMultiple_stops (file := .f) hr h,
    fun r1 r2 s why hr hlen h => popMultiple_stops (file := .x) rfl hr hlen h,
    fun r1 r2 s why hr h0 hlen h => (exec_lmubrPop h0 hr s).trans (popMultiple_stops (file := .b) rfl hr hlen h),
    fun r1 r2 s why hr hlen h => popMultiple_stops (file := .f) rfl hr hlen h,
    fun r1 r2 s why hr h => pushMultiple_stops (file := .x) rfl hr h,
    fun r1 r2 s why hr h => pushMultiple_stops (file := .b) rfl hr h,
    fun r1 r2 s why hr h => pushMultiple_stops (file := .f) rfl hr h,
    fun rX rB addr disp s a why hpc h => ⟨fun hj => ?_, ?_⟩,
    fun rR rX rB addr s why hx h => ⟨?_, fun j hj hc => ?_, fun j hj hc => ?_⟩,
    fun j hj s why hc hlen h => ?_⟩
  · fin_cases hi
    · exact loadOne_stops (file := .b) h
    · exact loadOne_stops (file := .sb) h
    · exact loadOne_stops (file := .psb) h
    · exact loadOne_stops (file := .asb) h
  · fin_cases hi
    · exact storeOne_stops (file := .b) h
    · exact storeOne_stops (file := .sb) h
    · exact storeOne_stops (file := .psb) h
    · exact storeOne_stops (file := .asb) h
  · exact fault_of_error (jumpSubroutine_stops_save hpc hj (saveReturn_stops _ h))
  · exact fault_of_error (branchSubroutine_stops_save hpc (saveReturn_stops _ h))
  · apply fault_of_error
    simp only [jumpSubroutine, jumpTarget_stops hx h, bind, Except.bind]
  · fin_cases hj <;> exact condJump_stops hx h hc
  · fin_cases hj <;> exact condJump_stops hx h hc
  · fin_cases hj <;> exact returnIf_stops hc hlen h

end Sys2Proof.AccessStops
end

section
/-! SUPPORT. Addresses outside the address space (decision D28): where a sequential `pc`, a return address, a target
or a stack pointer would be one, its instruction stops. -/

namespace Sys2Proof.Wrapping

open Sys2Proof.Machine Sys2Proof.Groups Sys2Proof.Effects Sys2Proof.Ranges Sys2Proof.Transfers Sys2Proof.AccessStops

/-! ### Operations that do not use `pc` -/

/-- An operation that neither uses `pc` nor changes it. -/
def PcFree (op : State → Except Fault State) : Prop := ∀ s p, op (s.setPc p) = (op s).map (·.setPc p)

theorem PcFree.pc_eq {op : State → Except Fault State} {s t : State} (hop : PcFree op) (h : op s = .ok t) :
    t.pc = s.pc := by
  have hsame : Except.ok t = .ok (t.setPc s.pc) := h.symm.trans ((hop s s.pc).trans (by rw [h]; rfl))
  have hpc := congrArg State.pc (Except.ok.inj hsame)
  exact hpc

theorem PcFree.bind {op : State → Except Fault State} {rest : State → State → Except Fault State} (hop : PcFree op)
    (hrest : ∀ s t p, rest (s.setPc p) (t.setPc p) = (rest s t).map (·.setPc p)) :
    PcFree fun s => op s >>= rest s := by
  intro s p
  simp only [hop s p]
  cases op s with
  | error e => rfl
  | ok t => exact hrest s t p

section Operations
variable (file : FileName) (count : Nat) (r : RegNum) (s : State) (p : Addr)

theorem memWrite_setPc (a n v : Nat) : memWrite (s.setPc p) a n v = (memWrite s a n v).map (·.setPc p) := by
  by_cases hfits : a + n ≤ s.addrLimit
  · rw [memWrite, memWrite, if_pos hfits, if_pos (by exact hfits), State.setPc_params]
    cases firstInText s.params a n <;> rfl
  · rw [memWrite, memWrite, if_neg hfits, if_neg (by exact hfits)]
    rfl

theorem shrinkStack_setPc (len : Nat) : shrinkStack len (s.setPc p) = (shrinkStack len s).map (·.setPc p) := by
  by_cases hfits : len ≤ (s.b.read 0).toNat
  · rw [shrinkStack, shrinkStack, if_pos hfits, if_pos (by exact hfits)]
    rfl
  · rw [shrinkStack, shrinkStack, if_neg hfits, if_neg (by exact hfits)]
    rfl

theorem growStack_setPc (len : Nat) : growStack len (s.setPc p) = (growStack len s).map (·.setPc p) := by
  by_cases hfits : (s.b.read 0).toNat + len < s.addrLimit
  · rw [growStack, growStack, if_pos hfits, if_pos (by exact hfits)]
    rfl
  · rw [growStack, growStack, if_neg hfits, if_neg (by exact hfits)]
    rfl

theorem writeFile_setPc (v : Nat) : (s.setPc p).writeFile file r v = (s.writeFile file r v).setPc p := by
  cases file <;> rfl

theorem elementBytes_setPc : (s.setPc p).elementBytes file = s.elementBytes file := by
  cases file <;> rfl

theorem loadRange_setPc (a : Nat) :
    loadRange file count r a (s.setPc p) = (loadRange file count r a s).map (·.setPc p) := by
  induction count generalizing r a s with
  | zero => rfl
  | succ count ih =>
    simp only [loadRange, elementBytes_setPc, State.setPc_wrapAddr, writeFile_setPc, ih]
    rw [show memRead (s.setPc p) = memRead s from rfl]
    cases memRead s (s.wrapAddr a) (s.elementBytes file) <;> rfl

theorem storeRange_setPc (a : Nat) :
    storeRange file count r a (s.setPc p) = (storeRange file count r a s).map (·.setPc p) := by
  induction count generalizing r a s with
  | zero => rfl
  | succ count ih =>
    simp only [storeRange, elementBytes_setPc, State.setPc_wrapAddr, setPc_readFile, memWrite_setPc]
    cases memWrite s (s.wrapAddr a) (s.elementBytes file) (s.readFile file r) with
    | error e => rfl
    | ok t => exact ih (r + 1) t (a + s.elementBytes file)

/-- A popped return address replaces `pc`, whatever it was. -/
theorem popReturn_setPc : popReturn (s.setPc p) = popReturn s := by
  simp only [popReturn, State.setPc_addrBytes, shrinkStack_setPc]
  cases shrinkStack s.addrBytes s <;> rfl

end Operations

/-! ### Going on in sequence -/

/-- From every even `pc` with room for it, the next instruction in sequence is next. -/
def GoesOn (m : State → Except Fault State) (len : Nat) (s : State) : Prop :=
  ∀ p : Addr, p.getLsbD 0 = false → p.toNat + len < s.addrLimit →
    ∃ t, m (s.setPc p) = .ok t ∧ t.params = s.params ∧ t.pc.toNat = p.toNat + len

/-- What goes on in sequence stops where the next address is none. -/
def WrapsAtEnd (m : State → Except Fault State) (len : Nat) (s : State) : Prop :=
  s.addrLimit ≤ s.pc.toNat + len → GoesOn m len s → m s = .error (.addressWrap (s.pc.toNat + len : Nat))

section Sequence
variable {m op : State → Except Fault State} {len : Nat} {s : State}

theorem GoesOn.zero (h : GoesOn m len s) (hlen : len ≤ 4) :
    ∃ t, m (s.setPc 0) = .ok t ∧ t.params = s.params ∧ t.pc.toNat = len := by
  obtain ⟨t, ht, hparams, hpc⟩ := h 0 rfl (by have := s.addrLimit_ge; simp; omega)
  exact ⟨t, ht, hparams, hpc.trans (Nat.zero_add len)⟩

theorem GoesOn.two (h : GoesOn m len s) (hlen : len ≤ 4) : ∃ t, m (s.setPc 2) = .ok t ∧ t.pc.toNat = 2 + len := by
  obtain ⟨t, ht, -, hpc⟩ := h 2 rfl (by have := s.addrLimit_ge; simp; omega)
  exact ⟨t, ht, hpc⟩

/-- An operation on the rest of the state, and then the next instruction. -/
theorem work_wrapsAtEnd (hlen : len ≤ 4) (hop : PcFree op) : WrapsAtEnd (fun s => op s >>= advance len) len s := by
  intro hend hgo
  obtain ⟨t, ht, hparams, -⟩ := hgo.zero hlen
  simp only [hop s 0] at ht
  cases hu : op s with
  | error e =>
    rw [hu] at ht
    cases ht
  | ok u =>
    rw [hu] at ht
    obtain ⟨-, rfl⟩ := (advance_eq_ok_iff _ _ _).1 ht
    have hlimit : u.addrLimit = s.addrLimit := by
      simp only [State.addrLimit, show u.params = s.params from hparams]
    have hpc := hop.pc_eq hu
    show (op s >>= advance len) = _
    rw [hu]
    show advance len u = _
    rw [← hpc, advance_stops (by rw [hlimit, hpc]; exact hend)]

/-- A change of other parts of the state, and then the next instruction. -/
theorem change_wrapsAtEnd {g : State → State} (hlen : len ≤ 4) (hg : ∀ s p, g (s.setPc p) = (g s).setPc p) :
    WrapsAtEnd (fun s => advance len (g s)) len s :=
  work_wrapsAtEnd (op := fun s => .ok (g s)) hlen fun s p => congrArg Except.ok (hg s p)

/-- A check that does not use `pc` has passed where the instruction goes on. -/
theorem check_wrapsAtEnd {check : State → Except Fault Unit} (hlen : len ≤ 4) (hc : ∀ p, check (s.setPc p) = check s)
    (h : WrapsAtEnd m len s) : WrapsAtEnd (fun s => check s >>= fun _ => m s) len s := by
  intro hend hgo
  cases hs : check s with
  | error e =>
    obtain ⟨t, ht, -⟩ := hgo.zero hlen
    simp only [hc, hs] at ht
    cases ht
  | ok u =>
    simp only [GoesOn, hc, hs] at hgo
    simp only [hs]
    exact h hend hgo

/-- A transfer to one place, whatever `pc` is, does not go on in sequence. -/
theorem fixed_wrapsAtEnd (hlen : len ≤ 4) (h : ∀ t u, m (s.setPc 0) = .ok t → m (s.setPc 2) = .ok u → t.pc = u.pc) :
    WrapsAtEnd m len s := by
  intro _ hgo
  obtain ⟨t, ht, -, htpc⟩ := hgo.zero hlen
  obtain ⟨u, hu, hupc⟩ := hgo.two hlen
  rw [h t u ht hu] at htpc
  omega

/-- The same, where even the state after it does not depend on `pc`. -/
theorem constant_wrapsAtEnd (hlen : len ≤ 4) (h : ∀ p, m (s.setPc p) = m s) : WrapsAtEnd m len s := by
  refine fixed_wrapsAtEnd hlen fun t u ht hu => ?_
  rw [h] at ht hu
  rw [Except.ok.inj (ht.symm.trans hu)]

/-- A relative transfer goes on in sequence only by a displacement of zero. -/
theorem relative_wrapsAtEnd {disp : Int} {g : Addr → State} (hlen : len ≤ 4)
    (hm : ∀ p, m (s.setPc p) = (relativeTarget (s.setPc p) len disp >>= fun a => transferTo a (g p))) :
    WrapsAtEnd m len s := by
  intro hend hgo
  by_cases h0 : disp = 0
  · have hs : m s = (relativeTarget s len disp >>= fun a => transferTo a (g s.pc)) := hm s.pc
    have htarget : ((s.pc.toNat + len : Nat) : Int) = s.pc.toNat + len + 2 * disp := by
      rw [h0]
      push_cast
      ring
    rw [hs, relativeTarget_stops htarget (.inr (by exact_mod_cast hend))]
    rfl
  · obtain ⟨t, ht, -, hpc⟩ := hgo.zero hlen
    simp only [hm, Except.bind_eq_ok_iff, relativeTarget_eq_ok_iff, transferTo_eq_ok_iff] at ht
    obtain ⟨a, ⟨hlow, hhigh, rfl⟩, -, rfl⟩ := ht
    have hle := s.addrLimit_le
    simp only [State.setPc_pc, State.setPc_addrLimit, BitVec.toNat_ofNat, BitVec.ofNat_eq_ofNat, Nat.zero_mod]
      at hpc hlow hhigh
    omega

end Sequence

/-! ### The groups -/

section Groups
variable {i : Instr} {file : FileName} {r r1 r2 rB rX rR rD rS cR lR : RegNum} {addr disp : Half} {c : Cond} {s : State}

theorem loadMultiple_wrapsAtEnd : WrapsAtEnd (loadMultiple i file r1 r2 rB addr) 4 s :=
  check_wrapsAtEnd (check := fun _ => checkRange i r1 r2) (by decide) (fun _ => rfl)
    (work_wrapsAtEnd (op := fun s => loadRange file (rangeCount r1 r2) r1 (ea0 rB addr s).toNat s) (by decide)
      fun s p => loadRange_setPc file _ r1 s p _)

theorem storeMultiple_wrapsAtEnd : WrapsAtEnd (storeMultiple i file r1 r2 rB addr) 4 s :=
  check_wrapsAtEnd (check := fun _ => checkRange i r1 r2) (by decide) (fun _ => rfl)
    (work_wrapsAtEnd (op := fun s => storeRange file (rangeCount r1 r2) r1 (ea0 rB addr s).toNat s) (by decide)
      fun s p => storeRange_setPc file _ r1 s p _)

theorem popMultiple_wrapsAtEnd : WrapsAtEnd (popMultiple i file r1 r2) 2 s := by
  have hparts : popMultiple i file r1 r2 = fun s => checkRange i r1 r2 >>= fun _ =>
      (shrinkStack (rangeCount r1 r2 * s.elementBytes file) s >>= fun t =>
        loadRange file (rangeCount r1 r2) r1 (t.b.read 0).toNat t) >>= advance 2 := by
    funext s
    simp only [popMultiple, bind_assoc]
  rw [hparts]
  refine check_wrapsAtEnd (check := fun _ => checkRange i r1 r2) (by decide) (fun _ => rfl)
    (work_wrapsAtEnd (by decide) (PcFree.bind (fun s p => ?_) fun s t p => loadRange_setPc file _ r1 t p _))
  rw [elementBytes_setPc]
  exact shrinkStack_setPc s p _

theorem pushMultiple_wrapsAtEnd : WrapsAtEnd (pushMultiple i file r1 r2) 2 s := by
  have hparts : pushMultiple i file r1 r2 = fun s => checkRange i r1 r2 >>= fun _ =>
      (storeRange file (rangeCount r1 r2) r1 (s.b.read 0).toNat s >>= fun t =>
        growStack (rangeCount r1 r2 * s.elementBytes file) t) >>= advance 2 := by
    funext s
    simp only [pushMultiple, bind_assoc]
  rw [hparts]
  refine check_wrapsAtEnd (check := fun _ => checkRange i r1 r2) (by decide) (fun _ => rfl)
    (work_wrapsAtEnd (by decide) (PcFree.bind (fun s p => storeRange_setPc file _ r1 s p _) fun s t p => ?_))
  rw [elementBytes_setPc]
  exact growStack_setPc t p _

theorem loadOne_wrapsAtEnd : WrapsAtEnd (loadOne file r rB addr) 4 s := by
  have hparts : loadOne file r rB addr = fun s => (memRead s (ea0 rB addr s).toNat (s.elementBytes file) >>= fun v =>
      .ok (s.writeFile file r v)) >>= advance 4 := by
    funext s
    simp only [loadOne]
    cases memRead s (ea0 rB addr s).toNat (s.elementBytes file) <;> rfl
  rw [hparts]
  refine work_wrapsAtEnd (by decide) fun s p => ?_
  simp only [elementBytes_setPc, writeFile_setPc]
  rw [show memRead (s.setPc p) = memRead s from rfl, show ea0 rB addr (s.setPc p) = ea0 rB addr s from rfl]
  cases memRead s (ea0 rB addr s).toNat (s.elementBytes file) <;> rfl

theorem storeOne_wrapsAtEnd : WrapsAtEnd (storeOne file r rB addr) 4 s := by
  refine work_wrapsAtEnd
    (op := fun s => memWrite s (ea0 rB addr s).toNat (s.elementBytes file) (s.readFile file r)) (by decide)
    fun s p => ?_
  simp only [elementBytes_setPc, setPc_readFile]
  exact memWrite_setPc s p _ _ _

theorem extensibleShift_wrapsAtEnd {left : Bool} {conn : BitVec 4} {n : BitVec 6} :
    WrapsAtEnd (extensibleShift i left rD rS conn n) 4 s :=
  check_wrapsAtEnd (check := fun _ => checkExtensible i rD n) (by decide) (fun _ => rfl)
    (change_wrapsAtEnd (by decide) fun _ _ => rfl)

theorem shiftNarrow_wrapsAtEnd {op : ShiftOp} {w n : Nat} : WrapsAtEnd (shiftNarrow op w r n) 2 s :=
  change_wrapsAtEnd (by decide) fun _ _ => rfl

theorem shiftWord_wrapsAtEnd {op : ShiftOp} {n : Nat} : WrapsAtEnd (shiftWord op r n) 2 s :=
  change_wrapsAtEnd (by decide) fun _ _ => rfl

theorem shiftLong_wrapsAtEnd {op : ShiftOp} {n : Nat} : WrapsAtEnd (shiftLong i op r n) 2 s :=
  check_wrapsAtEnd (check := fun _ => checkEven i r) (by decide) (fun _ => rfl)
    (change_wrapsAtEnd (by decide) fun _ _ => rfl)

theorem replaceWord_wrapsAtEnd {v : State → Word} (hv : ∀ s p, v (s.setPc p) = v s) :
    WrapsAtEnd (fun s => replaceWord r (v s) s) 2 s :=
  change_wrapsAtEnd (by decide) fun s p => by rw [hv]; rfl

theorem arithmeticWord_wrapsAtEnd {op : Word → Word} : WrapsAtEnd (arithmeticWord op r) 2 s :=
  change_wrapsAtEnd (by decide) fun _ _ => rfl

theorem applyFunction_wrapsAtEnd {ty : FpType} {fn : FpFn} : WrapsAtEnd (applyFunction ty fn r) 2 s :=
  change_wrapsAtEnd (by decide) fun _ _ => rfl

theorem replaceLong_wrapsAtEnd {v : State → Long} (hv : ∀ s p, v (s.setPc p) = v s) :
    WrapsAtEnd (fun s => replaceLong i r (v s) s) 2 s :=
  check_wrapsAtEnd (check := fun _ => checkEven i r) (by decide) (fun _ => rfl)
    (change_wrapsAtEnd (by decide) fun s p => by rw [hv]; rfl)

theorem arithmeticLong_wrapsAtEnd {op : Long → Long} : WrapsAtEnd (arithmeticLong i op r) 2 s :=
  check_wrapsAtEnd (check := fun _ => checkEven i r) (by decide) (fun _ => rfl)
    (change_wrapsAtEnd (by decide) fun _ _ => rfl)

theorem normalizeNarrow_wrapsAtEnd {w : Nat} : WrapsAtEnd (normalizeNarrow i w rD rS) 2 s :=
  check_wrapsAtEnd (check := fun _ => checkApart i rD rS) (by decide) (fun _ => rfl)
    (check_wrapsAtEnd (check := fun s => checkNonzero i rS (readNarrow w rS s)) (by decide) (fun _ => rfl)
      (change_wrapsAtEnd (by decide) fun _ _ => rfl))

theorem normalizeWord_wrapsAtEnd : WrapsAtEnd (normalizeWord i rD rS) 2 s :=
  check_wrapsAtEnd (check := fun _ => checkApart i rD rS) (by decide) (fun _ => rfl)
    (check_wrapsAtEnd (check := fun s => checkNonzero i rS (s.x.read rS)) (by decide) (fun _ => rfl)
      (change_wrapsAtEnd (by decide) fun _ _ => rfl))

theorem normalizeLong_wrapsAtEnd : WrapsAtEnd (normalizeLong i rD rS) 2 s :=
  check_wrapsAtEnd (check := fun _ => checkEven i rS) (by decide) (fun _ => rfl)
    (check_wrapsAtEnd (check := fun _ => checkApart i rD rS) (by decide) (fun _ => rfl)
      (check_wrapsAtEnd (check := fun _ => checkApart i rD (rS + 1)) (by decide) (fun _ => rfl)
        (check_wrapsAtEnd (check := fun s => checkNonzero i rS (readPair rS s)) (by decide) (fun _ => rfl)
          (change_wrapsAtEnd (by decide) fun _ _ => rfl))))

theorem condJump_wrapsAtEnd (w : State → Status) (hw : ∀ p, w (s.setPc p) = w s) :
    WrapsAtEnd (fun s => condJump c (w s) rX rB addr s) 4 s := by
  by_cases hc : condHolds c (w s) = true
  · refine constant_wrapsAtEnd (by decide) fun p => ?_
    simp only [condJump, hw, if_pos hc]
    rfl
  · exact fun hend _ => (if_neg hc).trans (advance_stops hend)

theorem longBranch_wrapsAtEnd : WrapsAtEnd (longBranch c disp) 4 s := by
  by_cases hc : condHolds c s.sw = true
  · exact relative_wrapsAtEnd (g := s.setPc) (by decide) fun _ => if_pos hc
  · exact fun hend _ => (if_neg hc).trans (advance_stops hend)

theorem branch_wrapsAtEnd {disp : BitVec 6} : WrapsAtEnd (branch c disp) 2 s := by
  by_cases hc : condHolds c s.sw = true
  · exact relative_wrapsAtEnd (g := s.setPc) (by decide) fun _ => if_pos hc
  · exact fun hend _ => (if_neg hc).trans (advance_stops hend)

theorem returnIf_wrapsAtEnd : WrapsAtEnd (returnIf c) 2 s := by
  by_cases hc : condHolds c s.sw = true
  · refine constant_wrapsAtEnd (by decide) fun p => ?_
    simp only [returnIf, State.setPc_sw, if_pos hc, popReturn_setPc]
  · exact fun hend _ => (if_neg hc).trans (advance_stops hend)

theorem countJump_wrapsAtEnd {down : Bool} : WrapsAtEnd (countJump down cR lR rB addr) 4 s := by
  by_cases hm : countMet down cR lR (stepCount down cR s) = true
  · refine constant_wrapsAtEnd (by decide) fun p => ?_
    rw [countJump_taken hm, countJump_taken (s := s.setPc p) hm]
    rfl
  · exact fun hend _ => (countJump_next hm).trans (advance_stops (s := stepCount down cR s) hend)

theorem countBranch_wrapsAtEnd {down : Bool} : WrapsAtEnd (countBranch down cR lR disp) 4 s := by
  by_cases hm : countMet down cR lR (stepCount down cR s) = true
  · exact relative_wrapsAtEnd (g := fun p => stepCount down cR (s.setPc p)) (by decide) fun _ => countBranch_taken hm
  · exact fun hend _ => (countBranch_next hm).trans (advance_stops (s := stepCount down cR s) hend)

theorem jumpSubroutine_wrapsAtEnd : WrapsAtEnd (jumpSubroutine rR rX rB addr) 4 s := by
  refine fixed_wrapsAtEnd (by decide) fun t u ht hu => ?_
  simp only [jumpSubroutine, Except.bind_eq_ok_iff, transferTo_eq_ok_iff] at ht hu
  obtain ⟨a, ha, -, -, t', -, -, rfl⟩ := ht
  obtain ⟨a', ha', -, -, u', -, -, rfl⟩ := hu
  have hsame : jumpTarget rX rB addr (s.setPc 0) = jumpTarget rX rB addr (s.setPc 2) := rfl
  exact Except.ok.inj (ha.symm.trans (hsame.trans ha'))

theorem branchSubroutine_stops_next (hend : s.addrLimit ≤ s.pc.toNat + 4) :
    branchSubroutine rR disp s = .error (.addressWrap (s.pc.toNat + 4 : Nat)) := by
  simp only [branchSubroutine, nextAddr_stops hend, bind, Except.bind]

end Groups

/-! ### Every instruction -/

theorem length_functionOf {ty : FpType} {fn : FpFn} {r : RegNum} {i : Instr} (h : functionOf ty fn r = .instr i) :
    i.length = 2 := by
  cases fn
  case clr | abs | sgn | neg =>
    simp only [functionOf] at h
    split at h
    · cases h
      rfl
    · cases h
  all_goals cases ty <;> cases h <;> rfl

/-- An instruction that goes on in sequence wherever `pc` has room stops where it has none (O55, first clause). -/
def SequenceStops (i : Instr) (s : State) : Prop :=
  s.addrLimit ≤ s.pc.toNat + i.length →
    (∀ p : Addr, p.getLsbD 0 = false → p.toNat + i.length < s.addrLimit →
      ∃ t, exec i { s with pc := p } = .next t ∧ t.pc.toNat = p.toNat + i.length) →
    exec i s = .fault (.addressWrap (s.pc.toNat + i.length : Nat))

theorem sequenceStops_of {i : Instr} {s : State} {m : State → Except Fault State} {len : Nat}
    (hw : WrapsAtEnd m len s) (hlen : i.length = len) (hm : ∀ p, exec i (s.setPc p) = outcomeOf (m (s.setPc p))) :
    SequenceStops i s := by
  subst hlen
  intro hend hgo
  have hs : exec i s = outcomeOf (m s) := hm s.pc
  rw [hs]
  refine fault_of_error (hw hend fun p heven hp => ?_)
  obtain ⟨t, ht, hpc⟩ := hgo p heven hp
  exact ⟨t, ok_of_next ((hm p).symm.trans ht), (exec_effect ht).params_ssw.1, hpc⟩

theorem sequenceStops (i : Instr) (s : State) : SequenceStops i s := by
  cases grouped i with
  | lmu | lmubr | lmuq => exact sequenceStops_of loadMultiple_wrapsAtEnd rfl fun _ => rfl
  | stmu | stmubr | stmuq => exact sequenceStops_of storeMultiple_wrapsAtEnd rfl fun _ => rfl
  | slbr | slsb | slpsb | slasb => exact sequenceStops_of loadOne_wrapsAtEnd rfl fun _ => rfl
  | sstbr | sssb | sspsb | ssasb => exact sequenceStops_of storeOne_wrapsAtEnd rfl fun _ => rfl
  | lmuPop | lmuqPop => exact sequenceStops_of popMultiple_wrapsAtEnd rfl fun _ => rfl
  | lmubrPop r1 r2 =>
    exact sequenceStops_of
      (check_wrapsAtEnd (check := fun _ => checkRange (.lmubrPop r1 r2) r1 r2) (by decide) (fun _ => rfl)
        (check_wrapsAtEnd (check := fun _ => checkNoStackPointer (.lmubrPop r1 r2) r1 r2) (by decide) (fun _ => rfl)
          (popMultiple_wrapsAtEnd (i := .lmubrPop r1 r2) (file := .b) (r1 := r1) (r2 := r2)))) rfl fun _ => rfl
  | stmuPush | stmubrPush | stmuqPush => exact sequenceStops_of pushMultiple_wrapsAtEnd rfl fun _ => rfl
  | jms => exact sequenceStops_of jumpSubroutine_wrapsAtEnd rfl fun _ => rfl
  | lbrs => exact fun hend _ => fault_of_error (branchSubroutine_stops_next hend)
  | lbxh | lbxle => exact sequenceStops_of countBranch_wrapsAtEnd rfl fun _ => rfl
  | jxh | jxle => exact sequenceStops_of countJump_wrapsAtEnd rfl fun _ => rfl
  | esl | esr => exact sequenceStops_of extensibleShift_wrapsAtEnd rfl fun _ => rfl
  | clr => exact sequenceStops_of (replaceWord_wrapsAtEnd (v := fun _ => 0) fun _ _ => rfl) rfl fun _ => rfl
  | inv r =>
    exact sequenceStops_of (replaceWord_wrapsAtEnd (v := fun s => ~~~(s.x.read r)) fun _ _ => rfl) rfl fun _ => rfl
  | abs | neg => exact sequenceStops_of arithmeticWord_wrapsAtEnd rfl fun _ => rfl
  | clrl => exact sequenceStops_of (replaceLong_wrapsAtEnd (v := fun _ => 0) fun _ _ => rfl) rfl fun _ => rfl
  | invl r =>
    exact sequenceStops_of (replaceLong_wrapsAtEnd (v := fun s => ~~~(readPair r s)) fun _ _ => rfl) rfl fun _ => rfl
  | absl | negl => exact sequenceStops_of arithmeticLong_wrapsAtEnd rfl fun _ => rfl
  | nb | nh => exact sequenceStops_of normalizeNarrow_wrapsAtEnd rfl fun _ => rfl
  | n => exact sequenceStops_of normalizeWord_wrapsAtEnd rfl fun _ => rfl
  | nl => exact sequenceStops_of normalizeLong_wrapsAtEnd rfl fun _ => rfl
  | jump c =>
    exact sequenceStops_of (condJump_wrapsAtEnd (fun s => s.sw) fun _ => rfl) (by cases c <;> rfl)
      fun _ => exec_jumpOf ..
  | @savedJump c _ _ _ _ hj =>
    exact sequenceStops_of (condJump_wrapsAtEnd (fun s => s.ssw) fun _ => rfl) (by cases c <;> cases hj <;> rfl)
      fun _ => exec_savedJumpOf hj _
  | longBranch c => exact sequenceStops_of longBranch_wrapsAtEnd (by cases c <;> rfl) fun _ => exec_longBranchOf ..
  | branch c => exact sequenceStops_of branch_wrapsAtEnd (by cases c <;> rfl) fun _ => exec_branchOf ..
  | ret c => exact sequenceStops_of returnIf_wrapsAtEnd (by cases c <;> rfl) fun _ => exec_returnOf ..
  | byteShift op => exact sequenceStops_of shiftNarrow_wrapsAtEnd (by cases op <;> rfl) fun _ => exec_byteShiftOf ..
  | halfwordShift op =>
    exact sequenceStops_of shiftNarrow_wrapsAtEnd (by cases op <;> rfl) fun _ => exec_halfwordShiftOf ..
  | wordShift op => exact sequenceStops_of shiftWord_wrapsAtEnd (by cases op <;> rfl) fun _ => exec_wordShiftOf ..
  | longShift op => exact sequenceStops_of shiftLong_wrapsAtEnd (by cases op <;> rfl) fun _ => exec_longShiftOf ..
  | mathFunction hf =>
    exact sequenceStops_of applyFunction_wrapsAtEnd (length_functionOf hf) fun _ => exec_functionOf hf _

/-! ### Targets, return addresses and the stack pointer -/

section Leaving
variable {i : Instr} {file : FileName} {r r1 r2 rB rX rR cR lR : RegNum} {addr disp : Half} {c : Cond} {s t u : State}
variable {a : Addr} {target : Int} {why : Fault}

theorem branch_leaves {disp : BitVec 6} (hc : condHolds c s.sw = true) (ha : target = s.pc.toNat + 2 + 2 * disp.toInt)
    (hout : target < 0 ∨ s.addrLimit ≤ target) : outcomeOf (branch c disp s) = .fault (.addressWrap target) := by
  simp only [branch, if_pos hc, relativeTarget_stops (len := 2) ha hout, bind, Except.bind, outcomeOf]

theorem longBranch_leaves (hc : condHolds c s.sw = true) (ha : target = s.pc.toNat + 4 + 2 * disp.toInt)
    (hout : target < 0 ∨ s.addrLimit ≤ target) : outcomeOf (longBranch c disp s) = .fault (.addressWrap target) := by
  simp only [longBranch, if_pos hc, relativeTarget_stops (len := 4) ha hout, bind, Except.bind, outcomeOf]

theorem countBranch_leaves {down : Bool} (hm : countMet down cR lR (stepCount down cR s) = true)
    (ha : target = s.pc.toNat + 4 + 2 * disp.toInt) (hout : target < 0 ∨ s.addrLimit ≤ target) :
    outcomeOf (countBranch down cR lR disp s) = .fault (.addressWrap target) := by
  rw [countBranch_taken hm, relativeTarget_stops (len := 4) ha hout]
  rfl

theorem branchSubroutine_leaves (hpc : s.pc.toNat + 4 < s.addrLimit) (hsave : saveReturn rR (s.pc + 4) s = .ok u)
    (ha : target = s.pc.toNat + 4 + 2 * disp.toInt) (hout : target < 0 ∨ s.addrLimit ≤ target) :
    branchSubroutine rR disp s = .error (.addressWrap target) := by
  rw [branchSubroutine_eq hpc hsave, relativeTarget_stops (len := 4) ha hout]
  rfl

theorem jumpSubroutine_stops_next (hend : s.addrLimit ≤ s.pc.toNat + 4) (hj : JumpsTo s rX rB addr a) :
    jumpSubroutine rR rX rB addr s = .error (.addressWrap (s.pc.toNat + 4 : Nat)) := by
  simp only [jumpSubroutine, jumpTarget_completes hj, nextAddr_stops hend, bind, Except.bind]

/-- A POP of more bytes than `b[0]` counts. -/
theorem popMultiple_underflows (hr : r1 ≤ r2) (h : (s.b.read 0).toNat < rangeCount r1 r2 * s.elementBytes file) :
    outcomeOf (popMultiple i file r1 r2 s) =
      .fault (.addressWrap ((s.b.read 0).toNat - (rangeCount r1 r2 * s.elementBytes file : Nat))) := by
  simp only [popMultiple, checkRange_ok i hr, shrinkStack_stops h, bind, Except.bind, outcomeOf]

theorem storeRange_setMem {count b : Nat} (h : storeRange file count r b s = .ok t) : t = s.setMem t.mem := by
  induction count generalizing r b s with
  | zero =>
    cases h
    rfl
  | succ count ih =>
    simp only [storeRange, Except.bind_eq_ok_iff, memWrite_eq_ok_iff] at h
    obtain ⟨u, ⟨-, -, rfl⟩, h⟩ := h
    have hrest := ih h
    exact hrest

/-- A PUSH of a range that can be stored, but would raise `b[0]` past the last address. -/
theorem pushMultiple_overflows (hr : r1 ≤ r2)
    (hend : s.addrLimit ≤ (s.b.read 0).toNat + rangeCount r1 r2 * s.elementBytes file)
    (hc : RangeClear s (s.b.read 0).toNat (s.elementBytes file) (rangeCount r1 r2)) :
    outcomeOf (pushMultiple i file r1 r2 s) =
      .fault (.addressWrap ((s.b.read 0).toNat + rangeCount r1 r2 * s.elementBytes file : Nat)) := by
  obtain ⟨u, hu⟩ := storeRange_completes file (rangeCount r1 r2) r1 _ s hc
  have hgrow : growStack (rangeCount r1 r2 * s.elementBytes file) u =
      .error (.addressWrap ((s.b.read 0).toNat + rangeCount r1 r2 * s.elementBytes file : Nat)) := by
    rw [storeRange_setMem hu]
    exact growStack_stops (s := s.setMem u.mem) hend
  simp only [pushMultiple, checkRange_ok i hr, hu, hgrow, bind, Except.bind, outcomeOf]

/-- A return address that crosses the end stops with the address of its word, one that ends there with the new
stack pointer. -/
theorem saveReturn_overflows (next : Addr) {m : Nat} (hle : (s.b.read 0).toNat ≤ s.addrLimit)
    (hend : s.addrLimit ≤ (s.b.read 0).toNat + s.addrBytes)
    (hm : m = (s.addrLimit - (s.b.read 0).toNat) / s.addrBytes * s.addrBytes)
    (hclear : ClearOfText s (s.b.read 0).toNat m) :
    saveReturn 0 next s = .error (.addressWrap ((s.b.read 0).toNat + m : Nat)) := by
  have hpos := s.addrBytes_pos
  by_cases hfits : (s.b.read 0).toNat + s.addrBytes = s.addrLimit
  · have hwhole : m = s.addrBytes := by
      rw [hm, show s.addrLimit - (s.b.read 0).toNat = s.addrBytes by omega, Nat.div_self hpos, Nat.one_mul]
    subst hwhole
    simp only [saveReturn, if_true, (memWrite_eq_ok_iff s _ _ _ next.toNat).2 ⟨hfits.le, hclear, rfl⟩, bind,
      Except.bind]
    exact growStack_stops (s := s.setMem _) hend
  · have hnone : m = 0 := by
      rw [hm, Nat.div_eq_of_lt (by omega), Nat.zero_mul]
    subst hnone
    exact saveReturn_stops next (.inl ⟨by omega, rfl⟩)

end Leaving

/-- Settles O55. The first clause is `sequenceStops`; the others are the single places where an address would leave
the address space. -/
theorem leavingTheAddressSpaceStops : Obligations.LeavingTheAddressSpaceStops := by
  refine ⟨sequenceStops,
    fun rR rX rB addr disp s a hend =>
      ⟨fun hj => fault_of_error (jumpSubroutine_stops_next hend hj), fault_of_error (branchSubroutine_stops_next hend)⟩,
    fun j hj disp s a hc ha hout => ?_, fun j hj disp s a hc ha hout => ?_,
    fun cR lR disp s x a ha hout => ⟨fun hx hm => ?_, fun hx hm => ?_⟩,
    fun rR disp s a ha hout hpc hroom => ?_,
    fun r1 r2 s hr h => popMultiple_underflows (file := .x) hr h,
    fun r1 r2 s h0 hr h => (exec_lmubrPop h0 hr s).trans (popMultiple_underflows (file := .b) hr h),
    fun r1 r2 s hr h => popMultiple_underflows (file := .f) hr h,
    fun r1 r2 s hr hend =>
      ⟨pushMultiple_overflows (file := .x) hr hend, fun _ => pushMultiple_stops (file := .x) rfl hr⟩,
    fun r1 r2 s hr hend =>
      ⟨pushMultiple_overflows (file := .b) hr hend, fun _ => pushMultiple_stops (file := .b) rfl hr⟩,
    fun r1 r2 s hr hend =>
      ⟨pushMultiple_overflows (file := .f) hr hend, fun _ => pushMultiple_stops (file := .f) rfl hr⟩,
    fun rX rB addr disp s a m hpc hle hend hm hclear => ⟨fun hj => ?_, ?_⟩⟩
  · fin_cases hj <;> exact branch_leaves hc ha hout
  · fin_cases hj <;> exact longBranch_leaves hc ha hout
  · subst hx
    exact countBranch_leaves (down := true) ((countMet_high _ _ _).2 hm) ha hout
  · subst hx
    exact countBranch_leaves (down := false) ((countMet_lowOrEqual _ _ _).2 hm) ha hout
  · obtain ⟨u, hsave⟩ := saveReturn_completes (s.pc + 4) hroom
    exact fault_of_error (branchSubroutine_leaves hpc hsave ha hout)
  · exact fault_of_error (jumpSubroutine_stops_save hpc hj (saveReturn_overflows _ hle hend hm hclear))
  · exact fault_of_error (branchSubroutine_stops_save hpc (saveReturn_overflows _ hle hend hm hclear))

end Sys2Proof.Wrapping
end
